-- ==== Sys2Proof/Word.lean ====
section
/-! DEFINITION. The words of the block: 32-bit words, binary32 encodings, window offsets, and the events the host
presents to the block's one port (20_memory.md R39 to R43). -/

namespace Sys2Proof

/-- A word is 32 bits, bit 0 the least significant (00_scope.md R10). -/
abbrev Word := BitVec 32

/-- A byte, as a byte-addressed bridge carries it (20_memory.md R43). -/
abbrev Byte := BitVec 8

/-- A binary32 value, held as its encoding: sign bit 31, exponent bits 30:23, fraction bits 22:0 (00_scope.md R13). -/
abbrev F32 := BitVec 32

/-- A byte offset into the 32-byte register window: 5 bits wide (20_memory.md R39). -/
abbrev Offset := BitVec 5

/-- The widths a host or a bridge could ask for; 4 bytes is the only one the block has (20_memory.md R41). -/
inductive AccessSize where
  | byte
  | half
  | word
deriving DecidableEq, Repr

/-- What the world outside can do to the block: read or write a register of the window (00_scope.md R12), or apply
power-on reset (70_reset_and_hazards.md R121). -/
inductive HostEvent where
  /-- `MemRead(off, size)`. -/
  | read (size : AccessSize) (off : Offset)
  /-- `MemWrite(off, size, w)`. -/
  | write (size : AccessSize) (off : Offset) (w : Word)
  /-- Power-on reset. -/
  | powerOn
deriving DecidableEq, Repr

end Sys2Proof
end

