-- ==== Sys2Proof/Syntax.lean ====
section
/-! DEFINITION. The syntax of the command set: one constructor per row of spec/opcode_table.json (30_encoding.md R56). -/

namespace Sys2Proof

/-- The seven commands. OP0 and OP1 are no part of the command word: a command reads what they hold when CMD is
written (30_encoding.md R57, R60), so only IDX is an operand of the syntax. -/
inductive Instr where
  /-- NOP, 44_engine_commands.md R92. -/
  | nop
  /-- INIT, R93. -/
  | init
  /-- SET_FS, R94. -/
  | setFs
  /-- LOAD_DEFAULTS, R95. -/
  | loadDefaults
  /-- SET_PARAM, R96; `idx` is the 8-bit IDX field. -/
  | setParam (idx : BitVec 8)
  /-- GET_PARAM, R97; `idx` is the 8-bit IDX field. -/
  | getParam (idx : BitVec 8)
  /-- FRAME, R98. -/
  | frame
deriving DecidableEq, Repr

end Sys2Proof
end

