-- ==== Sys2Proof/WellFormed.lean ====
section
/-! DEFINITION. Which terms the block can be given: every command of the syntax, and the accesses that are whole words
at word offsets (20_memory.md R41, R42). -/

namespace Sys2Proof

/-- Every term of `Instr` is a command: all 256 values of IDX decode as SET_PARAM or GET_PARAM (30_encoding.md R55),
and the other five have no operand in the word. There is nothing left to check, constructor by constructor. -/
def Instr.wf : Instr → Bool
  | .nop => true
  | .init => true
  | .setFs => true
  | .loadDefaults => true
  | .setParam _ => true
  | .getParam _ => true
  | .frame => true

/-- 4 bytes is the only access size (20_memory.md R41). -/
def AccessSize.isWord : AccessSize → Bool
  | .byte => false
  | .half => false
  | .word => true

/-- Bits 1:0 of an offset the block decodes are 0 (20_memory.md R39, R42). -/
def Offset.isAligned (off : Offset) : Bool := off.extractLsb' 0 2 == 0#2

/-- The events that reach the block: word accesses at aligned offsets, and power-on reset
(60_exceptions.md R108, row E13: the others are not presented to it). -/
def HostEvent.wf : HostEvent → Bool
  | .read size off => size.isWord && Offset.isAligned off
  | .write size off _ => size.isWord && Offset.isAligned off
  | .powerOn => true

end Sys2Proof
end

