-- ==== Sys2Proof/Decode.lean ====
section
/-! DEFINITION. Decoding of command words, total on all 2^32 words (30_encoding.md R54, R55, R58), the opcode table of
R56 as data, and the encoder. -/

namespace Sys2Proof

/-- OPC, bits 31:24 (30_encoding.md R54). -/
def opcField (w : Word) : BitVec 8 := w.extractLsb' 24 8

/-- RSVD, bits 23:8 (30_encoding.md R54). -/
def rsvdField (w : Word) : BitVec 16 := w.extractLsb' 8 16

/-- IDX, bits 7:0 (30_encoding.md R54). -/
def idxField (w : Word) : BitVec 8 := w.extractLsb' 0 8

/-- Why a word is BAD: the three classes of 30_encoding.md R58. The block keeps no record of the class
(60_exceptions.md R109); the decoder names it so that a refusal of a word has a name (DESIGN CHOICE, log entry 10). -/
inductive BadWord where
  /-- Class (a): RSVD ≠ 0, with any OPC. -/
  | reservedNonzero
  /-- Class (b): OPC not one of the seven. -/
  | unassignedOpcode
  /-- Class (c): IDX ≠ 0 on an opcode that takes no index. -/
  | indexNonzero
deriving DecidableEq, Repr

/-- The opcodes that take no index (30_encoding.md R56). -/
def plainOpcode (opc : BitVec 8) : Option Instr :=
  if opc = 0x00#8 then some .nop
  else if opc = 0x01#8 then some .init
  else if opc = 0x02#8 then some .setFs
  else if opc = 0x03#8 then some .loadDefaults
  else if opc = 0x20#8 then some .frame
  else none

/-- The decoder, its tests in the order of 30_encoding.md R55. `.error` is that rule's BAD. -/
def decode (w : Word) : Except BadWord Instr :=
  if rsvdField w ≠ 0#16 then .error .reservedNonzero
  else if opcField w = 0x10#8 then .ok (.setParam (idxField w))
  else if opcField w = 0x11#8 then .ok (.getParam (idxField w))
  else if idxField w ≠ 0#8 then
    .error (if (plainOpcode (opcField w)).isSome then .indexNonzero else .unassignedOpcode)
  else
    match plainOpcode (opcField w) with
    | some i => .ok i
    | none => .error .unassignedOpcode

/-- A command word from its fields, RSVD = 0: `{OPC, RSVD, IDX}` (30_encoding.md R54). -/
def commandWord (opc idx : BitVec 8) : Word := opc ++ 0#16 ++ idx

/-- The word of each command (30_encoding.md R56). -/
def encode : Instr → Word
  | .nop => commandWord 0x00#8 0#8
  | .init => commandWord 0x01#8 0#8
  | .setFs => commandWord 0x02#8 0#8
  | .loadDefaults => commandWord 0x03#8 0#8
  | .setParam idx => commandWord 0x10#8 idx
  | .getParam idx => commandWord 0x11#8 idx
  | .frame => commandWord 0x20#8 0#8

/-- One row of the table of 30_encoding.md R56: `w & mask == pattern` selects the command. -/
structure OpcodeRow where
  mnemonic : String
  pattern : Word
  mask : Word
deriving DecidableEq, Repr

/-- The table of 30_encoding.md R56, in its order. -/
def opcodeTable : List OpcodeRow :=
  [⟨"NOP", 0x00000000#32, 0xFFFFFFFF#32⟩,
   ⟨"INIT", 0x01000000#32, 0xFFFFFFFF#32⟩,
   ⟨"SET_FS", 0x02000000#32, 0xFFFFFFFF#32⟩,
   ⟨"LOAD_DEFAULTS", 0x03000000#32, 0xFFFFFFFF#32⟩,
   ⟨"SET_PARAM", 0x10000000#32, 0xFFFFFF00#32⟩,
   ⟨"GET_PARAM", 0x11000000#32, 0xFFFFFF00#32⟩,
   ⟨"FRAME", 0x20000000#32, 0xFFFFFFFF#32⟩]

/-- Whether a row selects a word (30_encoding.md R56). -/
def OpcodeRow.selects (r : OpcodeRow) (w : Word) : Bool := w &&& r.mask == r.pattern

/-- The mnemonic of a command, as the table spells it. -/
def Instr.mnemonic : Instr → String
  | .nop => "NOP"
  | .init => "INIT"
  | .setFs => "SET_FS"
  | .loadDefaults => "LOAD_DEFAULTS"
  | .setParam _ => "SET_PARAM"
  | .getParam _ => "GET_PARAM"
  | .frame => "FRAME"

/-- The decoder on a word given as a number of `nbits` bits, bit 0 least significant, as spec/opcode_table.json numbers
them. A command is one word (30_encoding.md R53), so more than 32 bits are no command. -/
def decodeTableWord (nbits w : Nat) : Option Instr :=
  if nbits ≤ 32 then
    match decode (BitVec.ofNat 32 (w % 2 ^ nbits)) with
    | .ok i => some i
    | .error _ => none
  else none

end Sys2Proof
end

