-- ==== Sys2Proof/Config.lean ====
section
/-! DEFINITION. The implementation parameters of 00_scope.md R8, and the values the spec leaves open as uninterpreted
constants (00_scope.md R9, R19, R20, 20_memory.md R43). -/

namespace Sys2Proof.Config

/-- FS_DEFAULT = 44100.0: the sample rate substituted for an invalid one. -/
def fsDefault : F32 := 0x472C4400#32
/-- CUT_MIN = 20.0 Hz. -/
def cutMin : F32 := 0x41A00000#32
/-- CUT_MAX = 20000.0 Hz. -/
def cutMax : F32 := 0x469C4000#32
/-- RES_MIN = 0.0. -/
def resMin : F32 := 0x00000000#32
/-- RES_MAX = 1.0. -/
def resMax : F32 := 0x3F800000#32
/-- WAVE_MIN = 0.0. -/
def waveMin : F32 := 0x00000000#32
/-- WAVE_MAX = 4.0. -/
def waveMax : F32 := 0x40800000#32
/-- RATE_MIN = 0.01 Hz. -/
def rateMin : F32 := 0x3C23D70A#32
/-- RATE_MAX = 25.0 Hz. -/
def rateMax : F32 := 0x41C80000#32
/-- DEPTH_MIN = -10800.0 cents. -/
def depthMin : F32 := 0xC628C000#32
/-- DEPTH_MAX = 10800.0 cents. -/
def depthMax : F32 := 0x4628C000#32
/-- CENTS_PER_OCTAVE = 1200.0. -/
def centsPerOctave : F32 := 0x44960000#32
/-- CUT_DEFAULT = 15000.0 Hz. -/
def cutDefault : F32 := 0x466A6000#32
/-- RES_DEFAULT = 0.0. -/
def resDefault : F32 := 0x00000000#32
/-- WAVE_DEFAULT = 0.0 (Triangle). -/
def waveDefault : F32 := 0x00000000#32
/-- RATE_DEFAULT = 1.0 Hz. -/
def rateDefault : F32 := 0x3F800000#32
/-- DEPTH_DEFAULT = 0.0 cents. -/
def depthDefault : F32 := 0x00000000#32
/-- MS_TO_S = 0.001. -/
def msToS : F32 := 0x3A83126F#32
/-- TWO_PI = 2π rounded. -/
def twoPi : F32 := 0x40C90FDB#32
/-- SMOOTH_TIME_MS = 10.0 ms (decision D14). -/
def smoothTimeMs : F32 := 0x41200000#32
/-- EXP_K = 4.0 (decision D23). -/
def expK : F32 := 0x40800000#32
/-- EXP_DEN = 15.0 (decision D23). -/
def expDen : F32 := 0x41700000#32
/-- Q_MIN = 1/√2 rounded (decision D27). -/
def qMin : F32 := 0x3F3504F3#32
/-- Q_MAX = 10.0 (decision D27). -/
def qMax : F32 := 0x41200000#32
/-- Q_SPAN = Q_MAX − Q_MIN rounded (decision D27). -/
def qSpan : F32 := 0x4114AFB1#32
/-- NYQ_GUARD = 0.49 (decision D28). -/
def nyqGuard : F32 := 0x3EFAE148#32
/-- NUM_PARAMS: parameter indices 0..4. -/
def numParams : Nat := 5

/-- The raw `exp` field of 00_scope.md R9: uninterpreted; `Machine.expF32` bends it to R19 (DESIGN CHOICE, log entry 1). -/
opaque expRaw : F32 → F32
/-- The raw `2^x` field of 00_scope.md R9: uninterpreted; see `Machine.exp2F32` (DESIGN CHOICE, log entry 1). -/
opaque exp2Raw : F32 → F32
/-- The raw `sin` field of 00_scope.md R9: uninterpreted; see `Machine.sinF32` (DESIGN CHOICE, log entry 1). -/
opaque sinRaw : F32 → F32
/-- The raw `cos` field of 00_scope.md R9: uninterpreted; see `Machine.cosF32` (DESIGN CHOICE, log entry 1). -/
opaque cosRaw : F32 → F32

/-- The four rounded operations of 00_scope.md R14. -/
inductive FpOp where
  | add
  | sub
  | mul
  | div
deriving DecidableEq, Repr

/-- The bits a NaN result takes its sign and payload from: any quiet NaN may be returned (00_scope.md R20), so these
are uninterpreted; `Machine.nanOf` makes them a quiet NaN (DEDUCED, log entry 2). -/
opaque nanBits : FpOp → F32 → F32 → BitVec 32

/-- BRIDGE_ENDIAN, left OPEN (20_memory.md R43): whether a byte-addressed bridge puts bits 7:0 of a word at the lowest
address (DESIGN CHOICE, log entry 9). -/
opaque bridgeLittleEndian : Bool

end Sys2Proof.Config
end

