-- ==== Sys2Proof/Machine/Binary32.lean ====
section
/-! DEFINITION. IEEE 754 binary32 arithmetic, comparisons and the helper functions of 00_scope.md R13 to R18. A finite
value is an integer number of units of 2^-149 (the smallest subnormal), so sums, floors and comparisons are exact
integer arithmetic and only the final narrowing rounds. -/

namespace Sys2Proof.Machine

/-- Bits 30:0: exponent and fraction as one number, which orders the magnitudes (00_scope.md R13). -/
def mag (x : F32) : Nat := x.toNat % 2 ^ 31

/-- Bit 31: the sign. -/
def sgn (x : F32) : Bool := decide (2 ^ 31 ≤ x.toNat)

/-- The magnitude field of infinity. -/
def magInf : Nat := 0x7F800000

/-- `is_nan` (00_scope.md R16). -/
def isNaN (x : F32) : Bool := decide (magInf < mag x)

/-- An infinity of either sign. -/
def isInf (x : F32) : Bool := decide (mag x = magInf)

/-- `is_finite` (00_scope.md R16). -/
def isFinite (x : F32) : Bool := decide (mag x < magInf)

/-- A zero of either sign. -/
def isZero (x : F32) : Bool := decide (mag x = 0)

/-- The magnitude of a finite encoding in units of 2^-149: the fraction, with the hidden bit and shifted by the
exponent where the exponent field is not 0 (00_scope.md R13). -/
def units (m : Nat) : Nat :=
  if m < 2 ^ 23 then m else (2 ^ 23 + m % 2 ^ 23) * 2 ^ (m / 2 ^ 23 - 1)

/-- The exact value of a finite encoding, in units of 2^-149. -/
def value (x : F32) : Int := if sgn x then -(units (mag x) : Int) else (units (mag x) : Int)

/-- The encoding with sign `s` and magnitude field `m`. -/
def withSign (s : Bool) (m : Nat) : F32 := BitVec.ofNat 32 (if s then 2 ^ 31 + m else m)

/-- Round `num / den` to an integer, to nearest, ties to even. -/
def roundQuot (num den : Nat) : Nat :=
  if den < 2 * (num % den) ∨ (2 * (num % den) = den ∧ num / den % 2 = 1) then num / den + 1 else num / den

/-- How far the leading bit of `q` stands above bit 23: the exponent of the last place of a 24-bit significand. -/
def ulpShift (q : Nat) : Nat := q.log2 - 23

/-- The magnitude field of the binary32 nearest to `num / den` units of 2^-149, ties to even, with gradual underflow,
and infinity where the rounded value is out of range (00_scope.md R14). A carry out of the significand falls into the
exponent by itself. -/
def roundMag (num den : Nat) : Nat :=
  min (ulpShift (num / den) * 2 ^ 23 + roundQuot num (den * 2 ^ ulpShift (num / den))) magInf

/-- The quiet NaN an operation returns: sign and payload are free, a function of the operation and its operands
(00_scope.md R20; DEDUCED, log entry 2). -/
def nanOf (op : Config.FpOp) (a b : F32) : F32 := Config.nanBits op a b ||| 0x7FC00000#32

/-- Unary minus flips the sign bit and is exact (00_scope.md R14). -/
def fneg (x : F32) : F32 := x ^^^ 0x80000000#32

/-- The sum of two finite values: exact, then rounded once. An exact zero is +0.0 unless both operands carry the minus
sign (00_scope.md R14; PRESUMED, log entry 18). -/
def addFinite (a b : F32) : F32 :=
  if value a + value b = 0 then withSign (sgn a && sgn b) 0
  else withSign (decide (value a + value b < 0)) (roundMag (value a + value b).natAbs 1)

/-- The sum, `nan` being what it answers where IEEE 754 gives a NaN. -/
def addOr (nan a b : F32) : F32 :=
  if isNaN a || isNaN b then nan
  else if isInf a then (if isInf b && (sgn a != sgn b) then nan else a)
  else if isInf b then b
  else addFinite a b

/-- `a + b` (00_scope.md R14). -/
def fadd (a b : F32) : F32 := addOr (nanOf .add a b) a b

/-- `a - b` (00_scope.md R14). -/
def fsub (a b : F32) : F32 := addOr (nanOf .sub a b) a (fneg b)

/-- `a * b` (00_scope.md R14). -/
def fmul (a b : F32) : F32 :=
  if isNaN a || isNaN b then nanOf .mul a b
  else if isInf a then (if isZero b then nanOf .mul a b else withSign (sgn a != sgn b) magInf)
  else if isInf b then (if isZero a then nanOf .mul a b else withSign (sgn a != sgn b) magInf)
  else withSign (sgn a != sgn b) (roundMag (units (mag a) * units (mag b)) (2 ^ 149))

/-- `a / b` (00_scope.md R14). -/
def fdiv (a b : F32) : F32 :=
  if isNaN a || isNaN b then nanOf .div a b
  else if isInf a then (if isInf b then nanOf .div a b else withSign (sgn a != sgn b) magInf)
  else if isInf b then withSign (sgn a != sgn b) 0
  else if isZero b then (if isZero a then nanOf .div a b else withSign (sgn a != sgn b) magInf)
  else withSign (sgn a != sgn b) (roundMag (units (mag a) * 2 ^ 149) (units (mag b)))

/-- The place of a non-NaN encoding in the order of values; both zeros stand at 0, the infinities at the ends. -/
def key (x : F32) : Int := if sgn x then -(mag x : Int) else (mag x : Int)

/-- Neither operand is a NaN. -/
def ordered (a b : F32) : Bool := !isNaN a && !isNaN b

/-- `a < b`: false with a NaN operand (00_scope.md R16). `a > b` is `flt b a`. -/
def flt (a b : F32) : Bool := ordered a b && decide (key a < key b)

/-- `a <= b` (00_scope.md R16). `a >= b` is `fle b a`. -/
def fle (a b : F32) : Bool := ordered a b && decide (key a ≤ key b)

/-- `a == b`: -0.0 == +0.0, and false with a NaN operand (00_scope.md R16). -/
def feq (a b : F32) : Bool := ordered a b && decide (key a = key b)

/-- `a != b`: true with a NaN operand (00_scope.md R16). -/
def fne (a b : F32) : Bool := !feq a b

/-- The binary32 nearest to the rational `num / den` (with the sign `s`), ties to even: what a decimal literal denotes
(00_scope.md R15). -/
def ofRatio (s : Bool) (num den : Nat) : F32 := withSign s (roundMag (num * 2 ^ 149) den)

/-- +0.0 (00_scope.md R15). -/
def f0 : F32 := 0x00000000#32
/-- 0.5. -/
def fHalf : F32 := 0x3F000000#32
/-- 1.0. -/
def f1 : F32 := 0x3F800000#32
/-- 2.0. -/
def f2 : F32 := 0x40000000#32
/-- 3.0. -/
def f3 : F32 := 0x40400000#32
/-- 4.0. -/
def f4 : F32 := 0x40800000#32
/-- -1.0. -/
def fNeg1 : F32 := 0xBF800000#32
/-- -2.0. -/
def fNeg2 : F32 := 0xC0000000#32

/-- `clamp(v, lo, hi)` (00_scope.md R17): the test against `lo` first; a NaN `v` comes back as it is. -/
def clamp (v lo hi : F32) : F32 := if flt v lo then lo else if flt hi v then hi else v

/-- `min(a, b)` (00_scope.md R17). -/
def fmin (a b : F32) : F32 := if flt b a then b else a

/-- `floor(v)` of a finite `v`: the largest integer value not greater than `v` (00_scope.md R17). A zero is its own
floor (PRESUMED, log entry 3). -/
def ffloor (v : F32) : F32 :=
  if isZero v then v
  else withSign (sgn v) (roundMag (value v / 2 ^ 149 * 2 ^ 149).natAbs 1)

/-- `frac(v)`: `v - floor(v)` for a finite `v`, else +0.0 (00_scope.md R17, decision D51; PRESUMED, log entry 3). -/
def frac (v : F32) : F32 := if isFinite v then fsub v (ffloor v) else f0

/-- `trunc_u(v)`: the integer part toward zero, used for `v` in [0.0, 4.0] (00_scope.md R17; DESIGN CHOICE, log entry 11). -/
def truncU (v : F32) : Nat := units (mag v) / 2 ^ 149

/-- `coerce_fs(fs)` (00_scope.md R17, R18). -/
def coerceFs (fs : F32) : F32 := if isFinite fs && flt f0 fs then fs else Config.fsDefault

end Sys2Proof.Machine
end

