-- ==== Sys2Proof/Machine/Transcendental.lean ====
section
/-! DEFINITION. The four transcendental fields of 00_scope.md R9. Each is an uninterpreted constant of Config bent to the
properties T2 to T5 of 00_scope.md R19 and to nothing else: where the raw value meets them it stands, and where it does
not an admissible value stands in its place. So the fields range over exactly the functions R19 admits (DESIGN CHOICE, log entry 1). -/

namespace Sys2Proof.Machine

/-- A NaN that a field returns is a quiet one (00_scope.md R20). -/
def quieted (x : F32) : F32 := if isNaN x then x ||| 0x00400000#32 else x

/-- `lo <= x <= hi` as IEEE comparisons. -/
def within (lo hi x : F32) : Bool := fle lo x && fle x hi

/-- Keep `x` where `ok` holds of it, else take `other`. -/
def keepIf (ok : F32 → Bool) (x other : F32) : F32 := if ok x then x else other

/-- `exp_f32`: 1.0 at 0.0 (T2), in [0.0, 1.0] at every `x <= 0.0` (T4). -/
def expF32 (x : F32) : F32 :=
  if x = f0 then f1
  else if fle x f0 then keepIf (within f0 f1) (quieted (Config.expRaw x)) f0
  else quieted (Config.expRaw x)

/-- The finite encoding holds an integer in [-126, 127] (T3); either zero counts. -/
def isSmallInt (x : F32) : Bool :=
  isFinite x && decide (value x % 2 ^ 149 = 0) && decide (-126 ≤ value x / 2 ^ 149) && decide (value x / 2 ^ 149 ≤ 127)

/-- 2^n for n in [-126, 127], a normal number: exponent field n + 127, fraction 0. -/
def powTwo (n : Int) : F32 := withSign false ((n + 127).toNat * 2 ^ 23)

/-- Positive and finite. -/
def isPosFinite (x : F32) : Bool := isFinite x && flt f0 x

/-- -9.0, the lower end of T4's interval for `exp2_f32`. -/
def fNeg9 : F32 := 0xC1100000#32
/-- 9.0, the upper end of it. -/
def f9 : F32 := 0x41100000#32

/-- `exp2_f32`: exact at the integers of [-126, 127] (T2, T3), positive and finite on [-9.0, 9.0] (T4). -/
def exp2F32 (x : F32) : F32 :=
  if isSmallInt x then powTwo (value x / 2 ^ 149)
  else if within fNeg9 f9 x then keepIf isPosFinite (quieted (Config.exp2Raw x)) f1
  else quieted (Config.exp2Raw x)

/-- `sin_f32`: 0.0 at 0.0 (T2), in [-1.0, 1.0] at every finite `x` (T5). -/
def sinF32 (x : F32) : F32 :=
  if x = f0 then f0
  else if isFinite x then keepIf (within fNeg1 f1) (quieted (Config.sinRaw x)) f0
  else quieted (Config.sinRaw x)

/-- `cos_f32`: 1.0 at 0.0 (T2), in [-1.0, 1.0] at every finite `x` (T5). -/
def cosF32 (x : F32) : F32 :=
  if x = f0 then f1
  else if isFinite x then keepIf (within fNeg1 f1) (quieted (Config.cosRaw x)) f1
  else quieted (Config.cosRaw x)

end Sys2Proof.Machine
end

