-- ==== Sys2Proof/Machine/Coefficients.lean ====
section
/-! DEFINITION. The coefficient functions: SM_COEF (41_smoother.md R65), FLT_COEF (43_filter.md R82) and the LFO
increment (42_oscillator.md R72). Pure functions of binary32 values, each operation rounded once in the order the rule
shows. -/

namespace Sys2Proof.Machine

/-- The argument `-q` of SM_COEF's exponential: `q = TWO_PI / d`, `d = (T * MS_TO_S) * fs` samples (41_smoother.md R65). -/
def smExponent (t fs : F32) : F32 := fneg (fdiv Config.twoPi (fmul (fmul t Config.msToS) fs))

/-- `SM_COEF(T, fs)` = (a, b) with `a = exp_f32(-q)` and `b = 1.0 - a` (41_smoother.md R65). -/
def smCoef (t fs : F32) : F32 × F32 :=
  (expF32 (smExponent t fs), fsub f1 (expF32 (smExponent t fs)))

/-- The LFO increment per tick: one division (42_oscillator.md R72). -/
def oscInc (rate fs : F32) : F32 := fdiv rate fs

/-- The five normalised coefficients of a filter (10_state.md R34). -/
structure Coefs where
  b0 : F32
  b1 : F32
  b2 : F32
  a1 : F32
  a2 : F32
deriving DecidableEq, Repr

/-- The normalised angular frequency `w0 = (TWO_PI * fce) / fs` at the effective cutoff
`fce = min(fc, NYQ_GUARD * fs)` (43_filter.md R82). -/
def fltOmega (fc fs : F32) : F32 :=
  fdiv (fmul Config.twoPi (fmin fc (fmul Config.nyqGuard fs))) fs

/-- `Q = Q_MIN + (r * Q_SPAN)` (43_filter.md R82). -/
def fltQ (r : F32) : F32 := fadd Config.qMin (fmul r Config.qSpan)

/-- The coefficients from `cw = cos(w0)`, `sw = sin(w0)` and Q (43_filter.md R82, from `alpha` on). -/
def fltCoefOf (cw sw q : F32) : Coefs :=
  let alpha := fdiv sw (fmul f2 q)
  let a0 := fadd f1 alpha
  let b1 := fsub f1 cw
  let b0 := fmul b1 fHalf
  let a1 := fmul fNeg2 cw
  let a2 := fsub f1 alpha
  { b0 := fdiv b0 a0, b1 := fdiv b1 a0, b2 := fdiv b0 a0, a1 := fdiv a1 a0, a2 := fdiv a2 a0 }

/-- `FLT_COEF(fc, r, fs)` (43_filter.md R82). -/
def fltCoef (fc r fs : F32) : Coefs :=
  fltCoefOf (cosF32 (fltOmega fc fs)) (sinF32 (fltOmega fc fs)) (fltQ r)

end Sys2Proof.Machine
end

