-- ==== Sys2Proof/Machine/State.lean ====
section
/-! DEFINITION. The state of the block, all of it, as plain data (10_state.md R22 to R38), the outcomes other than a next
state, and the state after power-on reset. -/

namespace Sys2Proof.Machine

/-- The waveforms, in the order of their indices 0 to 4 (00_scope.md R13, 10_state.md R33). -/
inductive Wave where
  | triangle
  | sine
  | sawtooth
  | square
  | exponential
deriving DecidableEq, Repr

/-- The parameter file P[0..4] (10_state.md R31). -/
structure ParamFile where
  /-- P[0], Hz. -/
  cutoff : F32
  /-- P[1]. -/
  resonance : F32
  /-- P[2], a waveform index as set, not truncated. -/
  lfoWaveform : F32
  /-- P[3], Hz. -/
  lfoFrequency : F32
  /-- P[4], cents. -/
  lfoModDepth : F32
deriving DecidableEq, Repr

/-- The ParameterSmoother SM (10_state.md R32). -/
structure Smoother where
  fs : F32
  /-- Time constant in ms; no command changes it (41_smoother.md R68). -/
  t : F32
  a : F32
  b : F32
  z : F32
deriving DecidableEq, Repr

/-- The Oscillator OSC (10_state.md R33). -/
structure Oscillator where
  fs : F32
  wave : Wave
  rate : F32
  inc : F32
  phase : F32
deriving DecidableEq, Repr

/-- A ModulatedFilter F, one for FL and one for FR (10_state.md R34). -/
structure Filter where
  fs : F32
  cut : F32
  res : F32
  /-- F.B0, F.B1, F.B2, F.A1, F.A2. -/
  coef : Coefs
  x1 : F32
  x2 : F32
  y1 : F32
  y2 : F32
deriving DecidableEq, Repr

/-- The state of the block and of the host's side of its port. The last two fields are the model's own (DESIGN CHOICE, log entries 5
and 6); every other field is a register the spec names. CMD is not stored (10_state.md R26). -/
structure State where
  /-- OP0 (10_state.md R27). -/
  op0 : F32
  /-- OP1 (10_state.md R27). -/
  op1 : F32
  /-- RES0 (10_state.md R28). -/
  res0 : F32
  /-- RES1 (10_state.md R28). -/
  res1 : F32
  /-- STATUS bit 0, the one bit of STATUS that is stored (10_state.md R29). -/
  badcmd : Bool
  /-- FS, the engine's sample rate (10_state.md R30). -/
  fs : F32
  params : ParamFile
  sm : Smoother
  osc : Oscillator
  fl : Filter
  fr : Filter
  /-- The model's own: the host's events the block has not served yet, oldest first (20_memory.md R48). -/
  pending : List HostEvent
  /-- The model's own: the words the port has returned to the host, newest first. -/
  readLog : List Word
deriving DecidableEq, Repr

/-- How the machine stops with a fault: never. The block raises no exception and has no fatal condition
(60_exceptions.md R107, R110), so there is no constructor (DEDUCED, log entry 20). -/
inductive Fault where
deriving DecidableEq, Repr

/-- What the model refuses. -/
inductive Refusal where
  /-- Raised by `exec` for a command that has no meaning yet; no arm raises it. Safe: nothing is claimed of it. -/
  | notModelled (mnemonic : String)
  /-- Raised by `serve` for an 8-bit or 16-bit access, which never reaches the block and which a model must reject
  (20_memory.md R41, 93_implementation_defined.md U19). Safe: the model stops. -/
  | narrowAccess (size : AccessSize) (off : Offset)
  /-- Raised by `serve` for a word access at an offset with bits 1:0 ≠ 0, which a model must refuse
  (20_memory.md R42, 93_implementation_defined.md U19). Safe: the model stops. -/
  | misalignedAccess (off : Offset)
deriving DecidableEq, Repr

/-- Write OP0. -/
def State.withOp0 (s : State) (v : F32) : State := { s with op0 := v }
/-- Write OP1. -/
def State.withOp1 (s : State) (v : F32) : State := { s with op1 := v }
/-- Write RES0. -/
def State.withRes0 (s : State) (v : F32) : State := { s with res0 := v }
/-- Write RES1. -/
def State.withRes1 (s : State) (v : F32) : State := { s with res1 := v }
/-- Write STATUS.BADCMD. -/
def State.withBadcmd (s : State) (v : Bool) : State := { s with badcmd := v }
/-- Write FS. -/
def State.withFs (s : State) (v : F32) : State := { s with fs := v }
/-- Write the parameter file. -/
def State.withParams (s : State) (v : ParamFile) : State := { s with params := v }
/-- Write the smoother. -/
def State.withSm (s : State) (v : Smoother) : State := { s with sm := v }
/-- Write the oscillator. -/
def State.withOsc (s : State) (v : Oscillator) : State := { s with osc := v }
/-- Write FL. -/
def State.withFl (s : State) (v : Filter) : State := { s with fl := v }
/-- Write FR. -/
def State.withFr (s : State) (v : Filter) : State := { s with fr := v }
/-- Write the host's queue. -/
def State.withPending (s : State) (v : List HostEvent) : State := { s with pending := v }
/-- Write the log of words read. -/
def State.withReadLog (s : State) (v : List Word) : State := { s with readLog := v }

/-- A filter as construction leaves it at the sample rate `fs`: default cutoff and resonance, their coefficients, and
an all-zero history (44_engine_commands.md R93). -/
def Filter.fresh (fs : F32) : Filter :=
  { fs := fs, cut := Config.cutDefault, res := Config.resDefault,
    coef := fltCoef Config.cutDefault Config.resDefault fs, x1 := f0, x2 := f0, y1 := f0, y2 := f0 }

/-- Power-on reset: the table of 10_state.md R38 (70_reset_and_hazards.md R121). The smoother's and the filters'
coefficients are the functions' values at the reset rate, as that table's rows say (DEDUCED, log entry 13). -/
def State.reset : State :=
  { op0 := 0#32
    op1 := 0#32
    res0 := 0#32
    res1 := 0#32
    badcmd := false
    fs := Config.fsDefault
    params :=
      { cutoff := Config.cutDefault, resonance := Config.resDefault, lfoWaveform := Config.waveDefault,
        lfoFrequency := Config.rateDefault, lfoModDepth := Config.depthDefault }
    sm :=
      { fs := Config.fsDefault, t := Config.smoothTimeMs,
        a := (smCoef Config.smoothTimeMs Config.fsDefault).1, b := (smCoef Config.smoothTimeMs Config.fsDefault).2,
        z := f0 }
    osc :=
      { fs := Config.fsDefault, wave := .triangle, rate := Config.rateDefault,
        inc := oscInc Config.rateDefault Config.fsDefault, phase := f0 }
    fl := Filter.fresh Config.fsDefault
    fr := Filter.fresh Config.fsDefault
    pending := []
    readLog := [] }

end Sys2Proof.Machine
end

