-- ==== Sys2Proof/Machine/Filter.lean ====
section
/-! DEFINITION. The ModulatedFilter's micro-operations (43_filter.md R83 to R86). -/

namespace Sys2Proof.Machine

/-- `FLT_SETFS(F, fs)` (43_filter.md R83): the history is kept. -/
def fltSetFs (fs : F32) (f : Filter) : Filter :=
  { f with fs := coerceFs fs, coef := fltCoef f.cut f.res (coerceFs fs) }

/-- `FLT_SETCUTOFF(F, hz)` (43_filter.md R84): a NaN is ignored, any other value clamped; the history is kept. -/
def fltSetCutoff (hz : F32) (f : Filter) : Filter :=
  if isNaN hz then f
  else
    { f with
      cut := clamp hz Config.cutMin Config.cutMax
      coef := fltCoef (clamp hz Config.cutMin Config.cutMax) f.res f.fs }

/-- `FLT_SETRES(F, q)` (43_filter.md R85): a NaN is ignored, any other value clamped; the history is kept. -/
def fltSetRes (q : F32) (f : Filter) : Filter :=
  if isNaN q then f
  else
    { f with
      res := clamp q Config.resMin Config.resMax
      coef := fltCoef f.cut (clamp q Config.resMin Config.resMax) f.fs }

/-- The output of one Direct Form I step (43_filter.md R86), its sums from left to right. -/
def fltOutput (f : Filter) (x : F32) : F32 :=
  fsub
    (fsub
      (fadd (fadd (fmul f.coef.b0 x) (fmul f.coef.b1 f.x1)) (fmul f.coef.b2 f.x2))
      (fmul f.coef.a1 f.y1))
    (fmul f.coef.a2 f.y2)

/-- `FLT_PROCESS(F, x)`, its state: both histories shift by one (43_filter.md R86). The value it returns is
`fltOutput f x`, computed from the state before. -/
def fltProcess (f : Filter) (x : F32) : Filter :=
  { f with x2 := f.x1, x1 := x, y2 := f.y1, y1 := fltOutput f x }

end Sys2Proof.Machine
end

