-- ==== Sys2Proof/Machine/Flags.lean ====
section
/-! DEFINITION. The block's one flag, STATUS.BADCMD (10_state.md R24, R29; 60_exceptions.md R109). -/

namespace Sys2Proof.Machine

/-- What a read of STATUS gives: bit 0 BADCMD, bits 31:1 zero (20_memory.md R44). -/
def statusWord (s : State) : Word := if s.badcmd then 1#32 else 0#32

/-- A write of STATUS: 1 in bit 0 clears BADCMD, 0 there has no effect, bits 31:1 are ignored (20_memory.md R45). -/
def statusWrite (w : Word) (s : State) : State := if w.getLsbD 0 then s.withBadcmd false else s

/-- What a BAD word does: it sets BADCMD and changes nothing else (44_engine_commands.md R90). This is all the block
has in the place of taking an exception: no cause, no saved state, no vector and no return (60_exceptions.md R110,
R111). -/
def takeBad (s : State) : State := s.withBadcmd true

end Sys2Proof.Machine
end

