-- ==== Sys2Proof/Machine/Operands.lean ====
section
/-! DEFINITION. Operands: the IDX field as a parameter index, and the parameter file it selects from (30_encoding.md R57,
10_state.md R31). OP0 and OP1 are read as they stand in the state (10_state.md R27). -/

namespace Sys2Proof.Machine

/-- IDX as an unsigned number 0..255 (30_encoding.md R57). -/
def paramIndex (idx : BitVec 8) : Nat := idx.toNat

/-- `P[i]`, or nothing for an index that is out of range (10_state.md R31). -/
def ParamFile.get (p : ParamFile) : Nat → Option F32
  | 0 => some p.cutoff
  | 1 => some p.resonance
  | 2 => some p.lfoWaveform
  | 3 => some p.lfoFrequency
  | 4 => some p.lfoModDepth
  | _ => none

/-- The ends of `P[i]`'s range (10_state.md R31). -/
def paramRange : Nat → Option (F32 × F32)
  | 0 => some (Config.cutMin, Config.cutMax)
  | 1 => some (Config.resMin, Config.resMax)
  | 2 => some (Config.waveMin, Config.waveMax)
  | 3 => some (Config.rateMin, Config.rateMax)
  | 4 => some (Config.depthMin, Config.depthMax)
  | _ => none

end Sys2Proof.Machine
end

