-- ==== Sys2Proof/Machine/Oscillator.lean ====
section
/-! DEFINITION. The Oscillator's micro-operations and waveforms (42_oscillator.md R70 to R80). -/

namespace Sys2Proof.Machine

/-- `OSC_SETFS(fs)` (42_oscillator.md R70): phase and waveform are kept. -/
def oscSetFs (fs : F32) (osc : Oscillator) : Oscillator :=
  { osc with fs := coerceFs fs, inc := oscInc osc.rate (coerceFs fs) }

/-- `OSC_SETRATE(hz)` (42_oscillator.md R71): a NaN is ignored, any other value clamped; the phase is kept. -/
def oscSetRate (hz : F32) (osc : Oscillator) : Oscillator :=
  if isNaN hz then osc
  else
    { osc with
      rate := clamp hz Config.rateMin Config.rateMax
      inc := oscInc (clamp hz Config.rateMin Config.rateMax) osc.fs }

/-- The waveform of an index (00_scope.md R13). Indices above 4 do not arise (DESIGN CHOICE, log entry 11). -/
def waveOfIndex : Nat → Wave
  | 0 => .triangle
  | 1 => .sine
  | 2 => .sawtooth
  | 3 => .square
  | _ => .exponential

/-- The waveform a value in [0.0, 4.0] selects: its integer part (42_oscillator.md R73). -/
def waveOf (v : F32) : Wave := waveOfIndex (truncU v)

/-- `OSC_SETWAVE(v)` (42_oscillator.md R73): a NaN is ignored; the phase is kept. -/
def oscSetWave (v : F32) (osc : Oscillator) : Oscillator :=
  if isNaN v then osc
  else { osc with wave := waveOf (clamp v Config.waveMin Config.waveMax) }

/-- `TRI(p)` (42_oscillator.md R76). -/
def waveTriangle (p : F32) : F32 := if flt p fHalf then fsub (fmul f4 p) f1 else fsub f3 (fmul f4 p)

/-- `SIN(p)` (42_oscillator.md R77). -/
def waveSine (p : F32) : F32 := sinF32 (fmul Config.twoPi p)

/-- `SAW(p)` (42_oscillator.md R78). -/
def waveSawtooth (p : F32) : F32 := fsub (fmul f2 p) f1

/-- `SQR(p)` (42_oscillator.md R79). -/
def waveSquare (p : F32) : F32 := if flt p fHalf then f1 else fNeg1

/-- `EXP(p)` (42_oscillator.md R80). -/
def waveExponential (p : F32) : F32 :=
  fsub (fdiv (fmul (fsub (exp2F32 (fmul Config.expK p)) f1) f2) Config.expDen) f1

/-- `WAVE(k, p)` (42_oscillator.md R75). -/
def wave (k : Wave) (p : F32) : F32 :=
  match k with
  | .triangle => waveTriangle p
  | .sine => waveSine p
  | .sawtooth => waveSawtooth p
  | .square => waveSquare p
  | .exponential => waveExponential p

/-- The phase after one tick: `frac(OSC.PHASE + OSC.INC)` (42_oscillator.md R74). -/
def oscNextPhase (osc : Oscillator) : F32 := frac (fadd osc.phase osc.inc)

/-- `OSC_TICK()`, its state: the phase advances (42_oscillator.md R74). -/
def oscTick (osc : Oscillator) : Oscillator := { osc with phase := oscNextPhase osc }

/-- `OSC_TICK()`, the value it returns: the waveform at the NEW phase (42_oscillator.md R74). -/
def oscTickValue (osc : Oscillator) : F32 := wave osc.wave (oscNextPhase osc)

end Sys2Proof.Machine
end

