-- ==== Sys2Proof/Machine/Smoother.lean ====
section
/-! DEFINITION. The ParameterSmoother's micro-operations (41_smoother.md R66, R67). -/

namespace Sys2Proof.Machine

/-- `SM_SETFS(fs)` (41_smoother.md R66): rate and coefficients, only when the coerced rate differs; `SM.Z` is kept. -/
def smSetFs (fs : F32) (sm : Smoother) : Smoother :=
  if fne (coerceFs fs) sm.fs then
    { sm with fs := coerceFs fs, a := (smCoef sm.t (coerceFs fs)).1, b := (smCoef sm.t (coerceFs fs)).2 }
  else sm

/-- The value of one smoothing step: `(target * SM.B) + (SM.Z * SM.A)` (41_smoother.md R67). -/
def smNext (target : F32) (sm : Smoother) : F32 := fadd (fmul target sm.b) (fmul sm.z sm.a)

/-- `SM_PROCESS(target)` (41_smoother.md R67): the new `SM.Z` is also the value returned. -/
def smProcess (target : F32) (sm : Smoother) : Smoother := { sm with z := smNext target sm }

end Sys2Proof.Machine
end

