-- ==== Sys2Proof/Machine/Ops.lean ====
section
/-! DEFINITION. The operations the commands share: the register window (20_memory.md R44 to R46), the parameter setters,
the default program, the construction of INIT and the modulation of FRAME. The block takes no exception: what stands in
its place is `takeBad` in Machine/Flags.lean (60_exceptions.md R110). -/

namespace Sys2Proof.Machine

/-- `MemRead(off, 4)` (20_memory.md R44): CMD and the unmapped offsets read 0. No read changes the block. The low two
bits of `off` are not carried (20_memory.md R42). -/
def memRead (off : Offset) (s : State) : Word :=
  match (off.extractLsb' 2 3).toNat with
  | 1 => s.op0
  | 2 => s.op1
  | 3 => s.res0
  | 4 => s.res1
  | 5 => statusWord s
  | _ => 0#32

/-- `MemWrite(off, 4, w)` for every register but CMD (20_memory.md R45): RES0, RES1 and the unmapped offsets ignore
it. -/
def memWrite (off : Offset) (w : Word) (s : State) : State :=
  match (off.extractLsb' 2 3).toNat with
  | 1 => s.withOp0 w
  | 2 => s.withOp1 w
  | 5 => statusWrite w s
  | _ => s

/-- SET_PARAM 0's effect: `P[0]` and both filters' cutoff (44_engine_commands.md R96). -/
def setCutoff (v : F32) (s : State) : State :=
  let p := clamp v Config.cutMin Config.cutMax
  ((s.withParams { s.params with cutoff := p }).withFl (fltSetCutoff p s.fl)).withFr (fltSetCutoff p s.fr)

/-- SET_PARAM 1's effect: `P[1]` and both filters' resonance (44_engine_commands.md R96). -/
def setResonance (v : F32) (s : State) : State :=
  let p := clamp v Config.resMin Config.resMax
  ((s.withParams { s.params with resonance := p }).withFl (fltSetRes p s.fl)).withFr (fltSetRes p s.fr)

/-- SET_PARAM 2's effect: `P[2]` and the oscillator's waveform (44_engine_commands.md R96). -/
def setWaveform (v : F32) (s : State) : State :=
  let p := clamp v Config.waveMin Config.waveMax
  (s.withParams { s.params with lfoWaveform := p }).withOsc (oscSetWave p s.osc)

/-- SET_PARAM 3's effect: `P[3]` and the oscillator's rate (44_engine_commands.md R96). -/
def setLfoRate (v : F32) (s : State) : State :=
  let p := clamp v Config.rateMin Config.rateMax
  (s.withParams { s.params with lfoFrequency := p }).withOsc (oscSetRate p s.osc)

/-- SET_PARAM 4's effect: `P[4]`, stored only (44_engine_commands.md R96). -/
def setModDepth (v : F32) (s : State) : State :=
  s.withParams { s.params with lfoModDepth := clamp v Config.depthMin Config.depthMax }

/-- `SET_PARAM(i, v)` (44_engine_commands.md R96): an index out of range and a NaN change nothing. -/
def setParam (i : Nat) (v : F32) (s : State) : State :=
  if Config.numParams ≤ i then s
  else if isNaN v then s
  else
    match i with
    | 0 => setCutoff v s
    | 1 => setResonance v s
    | 2 => setWaveform v s
    | 3 => setLfoRate v s
    | _ => setModDepth v s

/-- `GET_PARAM(i)`'s result: `P[i]`, or +0.0 for an index out of range (44_engine_commands.md R97). -/
def getParam (i : Nat) (s : State) : F32 := (s.params.get i).getD f0

/-- The default program: five SET_PARAMs in index order (44_engine_commands.md R95). -/
def loadDefaults (s : State) : State :=
  setParam 4 Config.depthDefault
    (setParam 3 Config.rateDefault
      (setParam 2 Config.waveDefault
        (setParam 1 Config.resDefault
          (setParam 0 Config.cutDefault s))))

/-- INIT's construction at the coerced rate `fs` (44_engine_commands.md R93, down to the default program): every
register but OP0 and OP1. The host's side of the port is not the block's to write. -/
def construct (fs : F32) (s : State) : State :=
  { op0 := s.op0
    op1 := s.op1
    res0 := 0#32
    res1 := 0#32
    badcmd := false
    fs := fs
    params :=
      { cutoff := Config.cutDefault, resonance := Config.resDefault, lfoWaveform := Config.waveDefault,
        lfoFrequency := Config.rateDefault, lfoModDepth := Config.depthDefault }
    sm :=
      { fs := fs, t := Config.smoothTimeMs, a := (smCoef Config.smoothTimeMs fs).1,
        b := (smCoef Config.smoothTimeMs fs).2, z := f0 }
    osc :=
      { fs := fs, wave := .triangle, rate := Config.rateDefault, inc := oscInc Config.rateDefault fs, phase := f0 }
    fl := Filter.fresh fs
    fr := Filter.fresh fs
    pending := s.pending
    readLog := s.readLog }

/-- SET_FS's propagation of a coerced rate that differs from FS: oscillator, both filters, smoother, and the LFO rate
again from `P[3]` (44_engine_commands.md R94). -/
def propagateFs (fs : F32) (s : State) : State :=
  ((((s.withFs fs).withOsc (oscSetRate s.params.lfoFrequency (oscSetFs fs s.osc))).withFl (fltSetFs fs s.fl)).withFr
    (fltSetFs fs s.fr)).withSm (smSetFs fs s.sm)

/-- The LFO's factor on the cutoff: `exp2((lfo * P[4]) / 1200)` (44_engine_commands.md R98, step b). -/
def modFactor (lfo depth : F32) : F32 := exp2F32 (fdiv (fmul lfo depth) Config.centsPerOctave)

/-- The cutoff FRAME pushes to both filters: `clamp(s * g)`, `s` the smoother's new output (44_engine_commands.md R98,
step b). -/
def modCutoff (lfo : F32) (s : State) : F32 :=
  clamp (fmul (smNext s.params.cutoff s.sm) (modFactor lfo s.params.lfoModDepth)) Config.cutMin Config.cutMax

/-- FRAME's step b: one smoother step and the modulated cutoff, the same for both filters (44_engine_commands.md R98). -/
def modulate (lfo : F32) (s : State) : State :=
  ((s.withSm (smProcess s.params.cutoff s.sm)).withFl (fltSetCutoff (modCutoff lfo s) s.fl)).withFr
    (fltSetCutoff (modCutoff lfo s) s.fr)

/-- FRAME's steps a to c: the tick, then the modulation when `P[4] != 0.0` as an IEEE comparison
(44_engine_commands.md R98, decision D32). -/
def frameControl (s : State) : State :=
  if fne s.params.lfoModDepth f0 then modulate (oscTickValue s.osc) (s.withOsc (oscTick s.osc))
  else s.withOsc (oscTick s.osc)

/-- FRAME's step d: left filter on OP0, right filter on OP1, and the results (44_engine_commands.md R98). -/
def frameFilter (s : State) : State :=
  (((s.withFl (fltProcess s.fl s.op0)).withFr (fltProcess s.fr s.op1)).withRes0 (fltOutput s.fl s.op0)).withRes1
    (fltOutput s.fr s.op1)

end Sys2Proof.Machine
end

