-- ==== Sys2Proof/Machine/Frame.lean ====
section
/-! DEFINITION. The meaning of FRAME (44_engine_commands.md R98). -/

namespace Sys2Proof.Machine

/-- FRAME (44_engine_commands.md R98): steps a to c, then d. -/
def execFrame (s : State) : Host.Outcome State Fault Refusal := .next (frameFilter (frameControl s))

end Sys2Proof.Machine
end

