-- ==== Sys2Proof/Machine/Lifecycle.lean ====
section
/-! DEFINITION. The meanings of NOP, INIT, SET_FS and LOAD_DEFAULTS (44_engine_commands.md R92 to R95). -/

namespace Sys2Proof.Machine

/-- NOP (44_engine_commands.md R92). -/
def execNop (s : State) : Host.Outcome State Fault Refusal := .next s

/-- INIT (44_engine_commands.md R93). -/
def execInit (s : State) : Host.Outcome State Fault Refusal := .next (loadDefaults (construct (coerceFs s.op0) s))

/-- SET_FS (44_engine_commands.md R94): nothing when the coerced rate equals FS. -/
def execSetFs (s : State) : Host.Outcome State Fault Refusal :=
  .next (if feq (coerceFs s.op0) s.fs then s else propagateFs (coerceFs s.op0) s)

/-- LOAD_DEFAULTS (44_engine_commands.md R95). -/
def execLoadDefaults (s : State) : Host.Outcome State Fault Refusal := .next (loadDefaults s)

end Sys2Proof.Machine
end

