-- ==== Sys2Proof/Machine/Parameter.lean ====
section
/-! DEFINITION. The meanings of SET_PARAM and GET_PARAM (44_engine_commands.md R96, R97). -/

namespace Sys2Proof.Machine

/-- SET_PARAM (44_engine_commands.md R96): the value is OP0. -/
def execSetParam (idx : BitVec 8) (s : State) : Host.Outcome State Fault Refusal :=
  .next (setParam (paramIndex idx) s.op0 s)

/-- GET_PARAM (44_engine_commands.md R97): RES0 only. -/
def execGetParam (idx : BitVec 8) (s : State) : Host.Outcome State Fault Refusal :=
  .next (s.withRes0 (getParam (paramIndex idx) s))

end Sys2Proof.Machine
end

