-- ==== Sys2Proof/Machine/Dispatch.lean ====
section
/-! DEFINITION. The meaning of every command, one arm each (44_engine_commands.md R90). -/

namespace Sys2Proof.Machine

def exec (i : Instr) (s : State) : Host.Outcome State Fault Refusal :=
  match i with
  | .nop => Sys2Proof.Machine.execNop s
  | .init => Sys2Proof.Machine.execInit s
  | .setFs => Sys2Proof.Machine.execSetFs s
  | .loadDefaults => Sys2Proof.Machine.execLoadDefaults s
  | .setParam idx => Sys2Proof.Machine.execSetParam idx s
  | .getParam idx => Sys2Proof.Machine.execGetParam idx s
  | .frame => Sys2Proof.Machine.execFrame s

end Sys2Proof.Machine
end

