-- ==== Sys2Proof/Machine/Port.lean ====
section
/-! DEFINITION. The block's one port: serving the host's events (20_memory.md R41 to R48, 44_engine_commands.md R90). -/

namespace Sys2Proof.Machine

/-- A write of `w` to CMD executes it: the command it decodes to, or the effect of a BAD word
(44_engine_commands.md R90). -/
def runCommand (w : Word) (s : State) : Host.Outcome State Fault Refusal :=
  match decode w with
  | .ok i => exec i s
  | .error _ => .next (takeBad s)

/-- Offset 0x00 is CMD (10_state.md R25). -/
def isCmd (off : Offset) : Bool := off.extractLsb' 2 3 == 0#3

/-- Serve one event: a narrow or a misaligned access is refused (20_memory.md R41, R42; DESIGN CHOICE, log entry 8), a read answers
the register's word (R44), a write of CMD executes it and any other write is R45's. Power-on reset sets every register
to its reset value (70_reset_and_hazards.md R121) and leaves the host's side of the port alone (DESIGN CHOICE, log entry 7). -/
def serve (e : HostEvent) (s : State) : Host.Outcome State Fault Refusal :=
  match e with
  | .read size off =>
    if !size.isWord then .refused (.narrowAccess size off)
    else if !Offset.isAligned off then .refused (.misalignedAccess off)
    else .next (s.withReadLog (memRead off s :: s.readLog))
  | .write size off w =>
    if !size.isWord then .refused (.narrowAccess size off)
    else if !Offset.isAligned off then .refused (.misalignedAccess off)
    else if isCmd off then runCommand w s
    else .next (memWrite off w s)
  | .powerOn => .next ((State.reset.withPending s.pending).withReadLog s.readLog)

/-- One step of the machine: serve the oldest event (20_memory.md R48). With none, nothing changes
(60_exceptions.md R120). -/
def serveNext (s : State) : Host.Outcome State Fault Refusal :=
  match s.pending with
  | [] => .next s
  | e :: rest => serve e (s.withPending rest)

/-- The event that hands the block a command word: a word write to CMD (10_state.md R26). -/
def commandEvent (w : Word) : HostEvent := .write .word 0x00#5 w

/-- `s` with a CMD write of the command word `w` of `nbits` bits as the next event to serve. -/
def fetchNext (s : State) (nbits w : Nat) : State :=
  s.withPending (commandEvent (BitVec.ofNat 32 (w % 2 ^ nbits)) :: s.pending)

end Sys2Proof.Machine
end

