-- ==== Sys2Proof/Machine/Step.lean ====
section
/-! DEFINITION. One step: the port serves the host's oldest event. -/

namespace Sys2Proof.Machine

/-- One step (20_memory.md R48, 60_exceptions.md R120). -/
def step (s : State) : Host.Outcome State Fault Refusal := serveNext s

/-- `s` with the command word `w` of `nbits` bits written to CMD as the next event (DESIGN CHOICE, log entry 5): nothing else changes,
and after that step the queue is as it was. -/
def State.withFetchWord (s : State) (nbits w : Nat) : State := fetchNext s nbits w

end Sys2Proof.Machine
end

