-- ==== Sys2Proof/Machine/Listing.lean ====
section
/-! DEFINITION. The host's side: listing lines, pseudo-commands and their bus expansions (30_encoding.md R61 to R63,
44_engine_commands.md R99), and the byte order of a bridge (20_memory.md R43). -/

namespace Sys2Proof.Machine

/-- A listing line: a command with the operands its bus expansion writes (30_encoding.md R61; DESIGN CHOICE, log entry 19). -/
inductive Line where
  | nop
  | init (fs : F32)
  | setFs (fs : F32)
  | loadDefaults
  | setParam (i : BitVec 8) (v : F32)
  | getParam (i : BitVec 8)
  | frame (l r : F32)
deriving DecidableEq, Repr

/-- The command of a line. -/
def lineInstr : Line → Instr
  | .nop => .nop
  | .init _ => .init
  | .setFs _ => .setFs
  | .loadDefaults => .loadDefaults
  | .setParam i _ => .setParam i
  | .getParam i => .getParam i
  | .frame _ _ => .frame

/-- The operand writes that go before the CMD write (30_encoding.md R63). -/
def lineOperands : Line → List HostEvent
  | .nop => []
  | .init fs => [.write .word 0x04#5 fs]
  | .setFs fs => [.write .word 0x04#5 fs]
  | .loadDefaults => []
  | .setParam _ v => [.write .word 0x04#5 v]
  | .getParam _ => []
  | .frame l r => [.write .word 0x04#5 l, .write .word 0x08#5 r]

/-- The result reads that go after it (30_encoding.md R63). -/
def lineReads : Line → List HostEvent
  | .nop => []
  | .init _ => []
  | .setFs _ => []
  | .loadDefaults => []
  | .setParam _ _ => []
  | .getParam _ => [.read .word 0x0C#5]
  | .frame _ _ => [.read .word 0x0C#5, .read .word 0x10#5]

/-- The bus expansion of a line (30_encoding.md R63). -/
def lineEvents (l : Line) : List HostEvent := lineOperands l ++ commandEvent (encode (lineInstr l)) :: lineReads l

/-- The pseudo-commands (30_encoding.md R62; DEDUCED, log entry 22). -/
inductive Pseudo where
  | setCutoff (v : F32)
  | setResonance (v : F32)
  | setWaveform (k : F32)
  | setLfoRate (v : F32)
  | setModDepth (v : F32)
  | getCutoff
  | getResonance
  | getWaveform
  | getLfoRate
  | getModDepth
  /-- PROCESS over the host's buffers, given as the list of its frames (44_engine_commands.md R99). -/
  | process (frames : List (F32 × F32))
  /-- CLEAR_STATUS: a bus write, not a command. -/
  | clearStatus
deriving DecidableEq, Repr

/-- The bus accesses a pseudo-command expands to (30_encoding.md R62). -/
def pseudoEvents : Pseudo → List HostEvent
  | .setCutoff v => lineEvents (.setParam 0#8 v)
  | .setResonance v => lineEvents (.setParam 1#8 v)
  | .setWaveform k => lineEvents (.setParam 2#8 k)
  | .setLfoRate v => lineEvents (.setParam 3#8 v)
  | .setModDepth v => lineEvents (.setParam 4#8 v)
  | .getCutoff => lineEvents (.getParam 0#8)
  | .getResonance => lineEvents (.getParam 1#8)
  | .getWaveform => lineEvents (.getParam 2#8)
  | .getLfoRate => lineEvents (.getParam 3#8)
  | .getModDepth => lineEvents (.getParam 4#8)
  | .process frames => frames.flatMap fun f => lineEvents (.frame f.1 f.2)
  | .clearStatus => [.write .word 0x14#5 0x00000001#32]

/-- What PROCESS does, frame by frame: the operands of each frame, its FRAME, and the two results to the host, in order
(44_engine_commands.md R99). -/
def processFrames : List (F32 × F32) → State → State
  | [], s => s
  | (l, r) :: frames, s =>
    let t := frameFilter (frameControl ((s.withOp0 l).withOp1 r))
    processFrames frames (t.withReadLog (t.res1 :: t.res0 :: t.readLog))

/-- The four bytes of a word as a byte-addressed bridge presents them, lowest address first, in its byte order, the OPEN
parameter BRIDGE_ENDIAN (20_memory.md R43; DESIGN CHOICE, log entry 9). -/
def bridgeBytes (w : Word) : Vector Byte 4 :=
  if Config.bridgeLittleEndian then
    #v[w.extractLsb' 0 8, w.extractLsb' 8 8, w.extractLsb' 16 8, w.extractLsb' 24 8]
  else #v[w.extractLsb' 24 8, w.extractLsb' 16 8, w.extractLsb' 8 8, w.extractLsb' 0 8]

/-- The word a bridge makes of four bytes, the one at the lowest address first (20_memory.md R43). -/
def bridgeWord (b0 b1 b2 b3 : Byte) : Word :=
  if Config.bridgeLittleEndian then b3 ++ b2 ++ b1 ++ b0 else b0 ++ b1 ++ b2 ++ b3

end Sys2Proof.Machine
end

