-- ==== Sys2Proof/Safety.lean ====
section
/-! DEFINITION. What a good state and a good host are: the invariants the spec gives the block (10_state.md R30 to R35)
and a host that presents word accesses at word offsets only (70_reset_and_hazards.md R123, H5). -/

namespace Sys2Proof.Machine

/-- Every register of the parameter file is inside its range (10_state.md R31). -/
structure ParamFile.InRange (p : ParamFile) : Prop where
  cutoff : within Config.cutMin Config.cutMax p.cutoff = true
  resonance : within Config.resMin Config.resMax p.resonance = true
  lfoWaveform : within Config.waveMin Config.waveMax p.lfoWaveform = true
  lfoFrequency : within Config.rateMin Config.rateMax p.lfoFrequency = true
  lfoModDepth : within Config.depthMin Config.depthMax p.lfoModDepth = true

/-- The invariants of the block, in the order of the rules that give them. -/
structure State.Inv (s : State) : Prop where
  /-- FS is finite and positive (10_state.md R30). -/
  fs_valid : isPosFinite s.fs = true
  /-- R31. -/
  params_in_range : s.params.InRange
  /-- `SM.T` is constant (41_smoother.md R68). -/
  sm_t : s.sm.t = Config.smoothTimeMs
  /-- `(SM.A, SM.B) = SM_COEF(SM.T, SM.FS)` (10_state.md R32). -/
  sm_coef : (s.sm.a, s.sm.b) = smCoef s.sm.t s.sm.fs
  /-- `OSC.INC = OSC.RATE / OSC.FS` (10_state.md R33). -/
  osc_inc : s.osc.inc = oscInc s.osc.rate s.osc.fs
  /-- The coefficients of FL (10_state.md R34). -/
  fl_coef : s.fl.coef = fltCoef s.fl.cut s.fl.res s.fl.fs
  /-- The coefficients of FR (10_state.md R34). -/
  fr_coef : s.fr.coef = fltCoef s.fr.cut s.fr.res s.fr.fs
  /-- The cutoff is inside its range (10_state.md R34). -/
  fl_cut_in_range : within Config.cutMin Config.cutMax s.fl.cut = true
  /-- I1 of 10_state.md R35. -/
  sm_fs : s.sm.fs = s.fs
  /-- I1. -/
  osc_fs : s.osc.fs = s.fs
  /-- I1. -/
  fl_fs : s.fl.fs = s.fs
  /-- I1. -/
  fr_fs : s.fr.fs = s.fs
  /-- I2. -/
  same_cut : s.fl.cut = s.fr.cut
  /-- I2. -/
  same_res : s.fl.res = s.fr.res
  /-- I3. -/
  same_coef : s.fl.coef = s.fr.coef
  /-- I4: the phase is in [0.0, 1.0). -/
  phase_in_range : fle f0 s.osc.phase = true ∧ flt s.osc.phase f1 = true
  /-- I5. -/
  rate_is_param : s.osc.rate = s.params.lfoFrequency
  /-- I5. -/
  wave_is_param : s.osc.wave = waveOf s.params.lfoWaveform
  /-- I6. -/
  res_is_param : s.fl.res = s.params.resonance

/-- The smoother's output is finite and not negative: in [0.0, 32768.0]. The model's own bound (DEDUCED, log entry 17). -/
def smoothedInRange (s : State) : Bool := within f0 0x47000000#32 s.sm.z

/-- The host keeps its duty H5: every event still to come is a word access at a word offset, or power-on reset
(70_reset_and_hazards.md R123). -/
def portOk (s : State) : Bool := s.pending.all HostEvent.wf

end Sys2Proof.Machine
end

