-- ==== Sys2Proof/Certificates/Slice0/Obligations.lean ====
section
/-! DEFINITION. The statements for the provers. The block has no memory but its register window (10_state.md R37), so a
statement that gives the whole next state is its own frame. -/

open Sys2Proof Sys2Proof.Machine

/-! ### Encoding -/

/-- Decoding the word of a well-formed command gives the command back, for every value of IDX (30_encoding.md R55, R56). -/
def Obligations.DecodeOfEncode : Prop :=
  ∀ i : Instr, i.wf = true → decode (encode i) = .ok i

/-- Every word that decodes is the word the encoder writes: no two words mean one command (30_encoding.md R55, R56). -/
def Obligations.EncodeOfDecode : Prop :=
  ∀ (w : Word) (i : Instr), decode w = .ok i → encode i = w

/-- 30_encoding.md R55, on the word `{OPC, RSVD, IDX}`. -/
def Obligations.DecodeFollowsTheFields : Prop :=
  ∀ (opc : BitVec 8) (rsvd : BitVec 16) (idx : BitVec 8),
    (rsvd ≠ 0#16 → ∃ c, decode (opc ++ rsvd ++ idx) = .error c) ∧
    (rsvd = 0#16 →
      (opc = 0x10#8 → decode (opc ++ rsvd ++ idx) = .ok (.setParam idx)) ∧
      (opc = 0x11#8 → decode (opc ++ rsvd ++ idx) = .ok (.getParam idx)) ∧
      (opc ≠ 0x10#8 → opc ≠ 0x11#8 → idx ≠ 0#8 → ∃ c, decode (opc ++ rsvd ++ idx) = .error c) ∧
      (opc ≠ 0x10#8 → opc ≠ 0x11#8 → idx = 0#8 →
        (opc = 0x00#8 → decode (opc ++ rsvd ++ idx) = .ok .nop) ∧
        (opc = 0x01#8 → decode (opc ++ rsvd ++ idx) = .ok .init) ∧
        (opc = 0x02#8 → decode (opc ++ rsvd ++ idx) = .ok .setFs) ∧
        (opc = 0x03#8 → decode (opc ++ rsvd ++ idx) = .ok .loadDefaults) ∧
        (opc = 0x20#8 → decode (opc ++ rsvd ++ idx) = .ok .frame) ∧
        (opc ∉ [0x00#8, 0x01#8, 0x02#8, 0x03#8, 0x20#8] → ∃ c, decode (opc ++ rsvd ++ idx) = .error c)))

/-- 30_encoding.md R58: the words that decode to no command are exactly those of the classes (a), (b) and (c), and
writing one to CMD changes no state except BADCMD. -/
def Obligations.IllegalWordsOnlySetBadcmd : Prop :=
  ∀ w : Word,
    ((∃ c, decode w = .error c) ↔
      (w.toNat / 2 ^ 8 % 2 ^ 16 ≠ 0 ∨
       w.toNat / 2 ^ 24 ∉ [0x00, 0x01, 0x02, 0x03, 0x10, 0x11, 0x20] ∨
       (w.toNat / 2 ^ 24 ∈ [0x00, 0x01, 0x02, 0x03, 0x20] ∧ w.toNat % 2 ^ 8 ≠ 0))) ∧
    ∀ (c : BadWord) (s : State) (rest : List HostEvent),
      decode w = .error c → s.pending = .write .word 0x00#5 w :: rest →
        step s = .next { s with badcmd := true, pending := rest }

/-- The opcode table against the decoder (30_encoding.md R56): a word decodes exactly where a row selects it, to a
command of that row, and no two rows select one word. -/
def Obligations.OpcodeTableSelectsWhatDecodes : Prop :=
  (∀ (w : Word) (i : Instr), decode w = .ok i → ∃ r ∈ opcodeTable, r.mnemonic = i.mnemonic ∧ r.selects w = true) ∧
  (∀ (w : Word), ∀ r ∈ opcodeTable, r.selects w = true → ∃ i, decode w = .ok i ∧ i.mnemonic = r.mnemonic) ∧
  (∀ (w : Word), ∀ r ∈ opcodeTable, ∀ r' ∈ opcodeTable, r.selects w = true → r'.selects w = true → r = r')

/-- The words of 30_encoding.md R63, written out, decode to their commands, and the words of V-EN-10 do not. -/
def Obligations.WrittenOutWordsDecode : Prop :=
  decode 0x00000000#32 = .ok .nop ∧ decode 0x01000000#32 = .ok .init ∧ decode 0x02000000#32 = .ok .setFs ∧
  decode 0x03000000#32 = .ok .loadDefaults ∧ decode 0x10000003#32 = .ok (.setParam 3#8) ∧
  decode 0x110000FF#32 = .ok (.getParam 255#8) ∧ decode 0x20000000#32 = .ok .frame ∧
  decode 0x10000100#32 = .error .reservedNonzero ∧ decode 0x30000000#32 = .error .unassignedOpcode ∧
  decode 0x01000005#32 = .error .indexNonzero

/-! ### The port -/

/-- A step runs the decoded command: when the host's next event is a write of CMD whose word decodes to a well-formed
command, the step is that command's `exec` on the state with the event served (44_engine_commands.md R90); and
`withFetchWord` puts such an event at the head. -/
def Obligations.StepRunsTheDecodedCommand : Prop :=
  (∀ (s : State) (w : Word) (i : Instr) (rest : List HostEvent),
    s.pending = .write .word 0x00#5 w :: rest → decode w = .ok i → i.wf = true →
      step s = exec i { s with pending := rest }) ∧
  (∀ (s : State) (w : Word) (i : Instr), decode w = .ok i → step (s.withFetchWord 32 w.toNat) = exec i s)

/-- Nothing changes while the host asks for nothing (60_exceptions.md R120). -/
def Obligations.IdleStepChangesNothing : Prop :=
  ∀ s : State, s.pending = [] → step s = .next s

/-- 20_memory.md R44: what a read of each register returns, that no read changes the block, and that a second read
returns the same word. -/
def Obligations.ReadsReturnTheRegisters : Prop :=
  ∀ (s : State) (off : Offset) (rest : List HostEvent), off.toNat % 4 = 0 →
    ∃ v : Word,
      v = (if off = 0x04#5 then s.op0 else if off = 0x08#5 then s.op1 else if off = 0x0C#5 then s.res0
           else if off = 0x10#5 then s.res1 else if off = 0x14#5 then (if s.badcmd then 1#32 else 0#32) else 0#32) ∧
      (s.pending = .read .word off :: rest →
        step s = .next { s with pending := rest, readLog := v :: s.readLog }) ∧
      (s.pending = .read .word off :: .read .word off :: rest →
        core.run 2 s = .next { s with pending := rest, readLog := v :: v :: s.readLog })

/-- The writes of every register but CMD (20_memory.md R45, R46). -/
def Obligations.WritesReachOnlyTheirRegister : Prop :=
  ∀ (s : State) (off : Offset) (w : Word) (rest : List HostEvent),
    off.toNat % 4 = 0 → off ≠ 0x00#5 → s.pending = .write .word off w :: rest →
      step s = .next
        (if off = 0x04#5 then { s with pending := rest, op0 := w }
         else if off = 0x08#5 then { s with pending := rest, op1 := w }
         else if off = 0x14#5 ∧ w.toNat % 2 = 1 then { s with pending := rest, badcmd := false }
         else { s with pending := rest })

/-- A narrow or a misaligned access is refused (20_memory.md R41, R42). That a narrow access is named first is the
model's choice (log entry 8). -/
def Obligations.NarrowOrMisalignedIsRefused : Prop :=
  ∀ (s : State) (size : AccessSize) (off : Offset) (w : Word) (rest : List HostEvent),
    (s.pending = .read size off :: rest ∨ s.pending = .write size off w :: rest) →
      (size ≠ .word → step s = .refused (.narrowAccess size off)) ∧
      (size = .word → off.toNat % 4 ≠ 0 → step s = .refused (.misalignedAccess off))

/-- A host that presents word accesses at word offsets is never stopped: every step answers a next state
(60_exceptions.md R107, R110). -/
def Obligations.WordAccessesNeverStop : Prop :=
  ∀ s : State, portOk s = true → ∃ t, step s = .next t ∧ portOk t = true

/-- BADCMD is set only by a word that decodes to no command, and cleared only by a write of STATUS with bit 0 = 1, by
INIT, or by power-on reset (10_state.md R29, 60_exceptions.md R109). -/
def Obligations.BadcmdChangesOnlyByItsRules : Prop :=
  ∀ s t : State, step s = .next t → t.badcmd ≠ s.badcmd →
    (t.badcmd = true ∧ ∃ w c rest, s.pending = .write .word 0x00#5 w :: rest ∧ decode w = .error c) ∨
    (t.badcmd = false ∧ ∃ rest,
      (∃ w : Word, w.toNat % 2 = 1 ∧ s.pending = .write .word 0x14#5 w :: rest) ∨
      s.pending = .write .word 0x00#5 0x01000000#32 :: rest ∨
      s.pending = .powerOn :: rest)

/-- 10_state.md R27: OP0 and OP1 read back what the host wrote, no command modifies them, and a command reads the value
they hold when CMD is written. -/
def Obligations.OperandRegistersAreStorage : Prop :=
  (∀ (s : State) (v : Word) (rest : List HostEvent),
    (s.pending = .write .word 0x04#5 v :: .read .word 0x04#5 :: rest →
      core.run 2 s = .next { s with pending := rest, op0 := v, readLog := v :: s.readLog }) ∧
    (s.pending = .write .word 0x08#5 v :: .read .word 0x08#5 :: rest →
      core.run 2 s = .next { s with pending := rest, op1 := v, readLog := v :: s.readLog })) ∧
  (∀ (i : Instr) (s : State), ∃ t, exec i s = .next t ∧ t.op0 = s.op0 ∧ t.op1 = s.op1) ∧
  (∀ (s : State) (w : Word) (i : Instr) (rest : List HostEvent),
    s.pending = .write .word 0x00#5 w :: rest → decode w = .ok i →
      ∃ u, u.op0 = s.op0 ∧ u.op1 = s.op1 ∧ step s = exec i u)

/-- 70_reset_and_hazards.md R128: FRAME writes both result registers, GET_PARAM RES0 only, INIT clears both, and every
other command and every BAD word leave them. FRAME's results are the filters' new outputs. -/
def Obligations.ResultRegistersChangeOnlyByTheirRules : Prop :=
  (∀ s : State, ∃ t, exec .frame s = .next t ∧ t.res0 = t.fl.y1 ∧ t.res1 = t.fr.y1) ∧
  (∀ (s : State) (idx : BitVec 8), ∃ t, exec (.getParam idx) s = .next t ∧
    t.res0 = (if idx.toNat < 5 then (s.params.get idx.toNat).getD 0#32 else 0#32) ∧ t.res1 = s.res1) ∧
  (∀ s : State, ∃ t, exec .init s = .next t ∧ t.res0 = 0#32 ∧ t.res1 = 0#32) ∧
  (∀ (i : Instr) (s : State), i ≠ .frame → i ≠ .init → (∀ idx, i ≠ .getParam idx) →
    ∃ t, exec i s = .next t ∧ t.res0 = s.res0 ∧ t.res1 = s.res1) ∧
  (∀ (s : State) (w : Word) (c : BadWord) (rest : List HostEvent),
    s.pending = .write .word 0x00#5 w :: rest → decode w = .error c →
      ∃ t, step s = .next t ∧ t.res0 = s.res0 ∧ t.res1 = s.res1)

/-! ### Reset and invariants -/

/-- The table of 10_state.md R38. Its last line, an empty queue and an empty log of reads, is the model's choice (log
entries 5 and 6). -/
def Obligations.ResetRegisterValues : Prop :=
  State.reset.op0 = 0#32 ∧ State.reset.op1 = 0#32 ∧ State.reset.res0 = 0#32 ∧ State.reset.res1 = 0#32 ∧
  statusWord State.reset = 0#32 ∧ State.reset.fs = 0x472C4400#32 ∧
  State.reset.params = ⟨0x466A6000#32, 0#32, 0#32, 0x3F800000#32, 0#32⟩ ∧
  State.reset.sm.fs = 0x472C4400#32 ∧ State.reset.sm.t = 0x41200000#32 ∧
  (State.reset.sm.a, State.reset.sm.b) = smCoef 0x41200000#32 0x472C4400#32 ∧ State.reset.sm.z = 0#32 ∧
  State.reset.osc = ⟨0x472C4400#32, .triangle, 0x3F800000#32, 0x37BE37C6#32, 0#32⟩ ∧
  State.reset.fl = ⟨0x472C4400#32, 0x466A6000#32, 0#32, fltCoef 0x466A6000#32 0#32 0x472C4400#32, 0#32, 0#32, 0#32, 0#32⟩ ∧
  State.reset.fr = State.reset.fl ∧
  State.reset.pending = [] ∧ State.reset.readLog = []

/-- Power-on reset puts the block in the state INIT at 44100.0 gives, with OP0 = OP1 = 0 in addition
(70_reset_and_hazards.md R121). That the host's queue and log stand through it is the model's choice (log entry 7). -/
def Obligations.PowerOnIsInitAtTheDefaultRate : Prop :=
  ∀ (s : State) (rest : List HostEvent), s.pending = .powerOn :: rest →
    ∃ t u, exec .init { s with op0 := 0x472C4400#32, pending := rest } = .next t ∧ step s = .next u ∧
      u = { t with op0 := 0#32, op1 := 0#32 } ∧ u = { State.reset with pending := rest, readLog := s.readLog }

/-- The state after reset meets the invariants of 10_state.md R30 to R35. -/
def Obligations.ResetMeetsTheInvariants : Prop := State.reset.Inv

/-- Every step keeps the invariants of 10_state.md R30 to R35: from any state that meets them, whatever the host's next
event is. -/
def Obligations.EveryStepKeepsTheInvariants : Prop :=
  ∀ s s' : State, s.Inv → step s = .next s' → s'.Inv

/-- Every step keeps the smoother's output finite and not negative (41_smoother.md R67). The bound 32768.0 is the
model's (log entry 17): the spec derives 20000. -/
def Obligations.EveryStepKeepsTheSmootherBounded : Prop :=
  ∀ s s' : State, s.Inv → smoothedInRange s = true → step s = .next s' → smoothedInRange s' = true

/-- Only FRAME, INIT and power-on reset move the LFO phase, the smoother's output or a filter's history
(70_reset_and_hazards.md R122, 42_oscillator.md R81 P2, 43_filter.md R87). -/
def Obligations.OnlyFrameInitAndResetMoveTheHistory : Prop :=
  ∀ s t : State, step s = .next t →
    (∃ rest, s.pending = .write .word 0x00#5 0x20000000#32 :: rest) ∨
    (∃ rest, s.pending = .write .word 0x00#5 0x01000000#32 :: rest) ∨
    (∃ rest, s.pending = .powerOn :: rest) ∨
    (t.osc.phase = s.osc.phase ∧ t.sm.z = s.sm.z ∧
     (t.fl.x1, t.fl.x2, t.fl.y1, t.fl.y2) = (s.fl.x1, s.fl.x2, s.fl.y1, s.fl.y2) ∧
     (t.fr.x1, t.fr.x2, t.fr.y1, t.fr.y2) = (s.fr.x1, s.fr.x2, s.fr.y1, s.fr.y2))

/-! ### The commands -/

/-- NOP (44_engine_commands.md R92): its only word is 0x00000000, it changes nothing, and 0x00000001 and 0x00000100 are
BAD. -/
def Obligations.NopChangesNothing : Prop :=
  (∀ w : Word, decode w = .ok .nop ↔ w = 0x00000000#32) ∧
  (∃ c, decode 0x00000001#32 = .error c) ∧ (∃ c, decode 0x00000100#32 = .error c) ∧
  ∀ s : State, exec .nop s = .next s

/-- INIT (44_engine_commands.md R93): every register but OP0 and OP1, from the coerced rate alone. -/
def Obligations.InitRebuildsTheBlock : Prop :=
  ∀ (s : State) (fs : F32), fs = coerceFs s.op0 →
    exec .init s = .next
      { s with
        res0 := 0#32, res1 := 0#32, badcmd := false, fs := fs
        params := ⟨Config.cutDefault, Config.resDefault, Config.waveDefault, Config.rateDefault, Config.depthDefault⟩
        sm := ⟨fs, Config.smoothTimeMs, (smCoef Config.smoothTimeMs fs).1, (smCoef Config.smoothTimeMs fs).2, f0⟩
        osc := ⟨fs, .triangle, Config.rateDefault, fdiv Config.rateDefault fs, f0⟩
        fl := ⟨fs, Config.cutDefault, Config.resDefault, fltCoef Config.cutDefault Config.resDefault fs, f0, f0, f0, f0⟩
        fr := ⟨fs, Config.cutDefault, Config.resDefault, fltCoef Config.cutDefault Config.resDefault fs, f0, f0, f0, f0⟩ }

/-- SET_FS (44_engine_commands.md R94): nothing where the coerced rate equals FS, else the rate goes to the oscillator,
both filters and the smoother, and `P[3]` to the oscillator again; all else is kept. -/
def Obligations.SetFsPropagatesTheRate : Prop :=
  ∀ (s : State) (fs rate : F32), fs = coerceFs s.op0 →
    rate = (if isNaN s.params.lfoFrequency then s.osc.rate
            else clamp s.params.lfoFrequency Config.rateMin Config.rateMax) →
    exec .setFs s = .next
      (if feq fs s.fs then s
       else
        { s with
          fs := fs
          osc := { s.osc with fs := fs, rate := rate, inc := fdiv rate fs }
          fl := { s.fl with fs := fs, coef := fltCoef s.fl.cut s.fl.res fs }
          fr := { s.fr with fs := fs, coef := fltCoef s.fr.cut s.fr.res fs }
          sm := if feq fs s.sm.fs then s.sm
                else { s.sm with fs := fs, a := (smCoef s.sm.t fs).1, b := (smCoef s.sm.t fs).2 } })

/-- SET_FS is idempotent: repeated with the same operand it changes nothing (44_engine_commands.md R94). -/
def Obligations.SetFsTwiceIsSetFsOnce : Prop :=
  ∀ s : State, ∃ t, exec .setFs s = .next t ∧ exec .setFs t = .next t

/-- LOAD_DEFAULTS (44_engine_commands.md R95): the parameters, cutoffs, resonances, coefficients, waveform, rate and
increment of the default program at the sub-blocks' own rates; all else is kept. -/
def Obligations.LoadDefaultsSetsTheDefaultProgram : Prop :=
  ∀ s : State,
    exec .loadDefaults s = .next
      { s with
        params := ⟨Config.cutDefault, Config.resDefault, Config.waveDefault, Config.rateDefault, Config.depthDefault⟩
        osc := { s.osc with wave := .triangle, rate := Config.rateDefault, inc := fdiv Config.rateDefault s.osc.fs }
        fl := { s.fl with cut := Config.cutDefault, res := Config.resDefault,
                          coef := fltCoef Config.cutDefault Config.resDefault s.fl.fs }
        fr := { s.fr with cut := Config.cutDefault, res := Config.resDefault,
                          coef := fltCoef Config.cutDefault Config.resDefault s.fr.fs } }

/-- SET_PARAM (44_engine_commands.md R96): an index out of range and a NaN change nothing; any other value is clamped,
stored and forwarded to the sub-block of its index; all else is kept. -/
def Obligations.SetParamStoresAndForwards : Prop :=
  (∀ (s : State) (idx : BitVec 8), 5 ≤ idx.toNat → exec (.setParam idx) s = .next s) ∧
  (∀ (s : State) (idx : BitVec 8), isNaN s.op0 = true → exec (.setParam idx) s = .next s) ∧
  (∀ s : State, isNaN s.op0 = false →
    (∀ p, p = clamp s.op0 Config.cutMin Config.cutMax →
      exec (.setParam 0#8) s = .next
        { s with params := { s.params with cutoff := p }
                 fl := { s.fl with cut := p, coef := fltCoef p s.fl.res s.fl.fs }
                 fr := { s.fr with cut := p, coef := fltCoef p s.fr.res s.fr.fs } }) ∧
    (∀ p, p = clamp s.op0 Config.resMin Config.resMax →
      exec (.setParam 1#8) s = .next
        { s with params := { s.params with resonance := p }
                 fl := { s.fl with res := p, coef := fltCoef s.fl.cut p s.fl.fs }
                 fr := { s.fr with res := p, coef := fltCoef s.fr.cut p s.fr.fs } }) ∧
    (∀ p, p = clamp s.op0 Config.waveMin Config.waveMax →
      exec (.setParam 2#8) s = .next
        { s with params := { s.params with lfoWaveform := p }
                 osc := { s.osc with wave := waveOfIndex (truncU p) } }) ∧
    (∀ p, p = clamp s.op0 Config.rateMin Config.rateMax →
      exec (.setParam 3#8) s = .next
        { s with params := { s.params with lfoFrequency := p }
                 osc := { s.osc with rate := p, inc := fdiv p s.osc.fs } }) ∧
    (∀ p, p = clamp s.op0 Config.depthMin Config.depthMax →
      exec (.setParam 4#8) s = .next { s with params := { s.params with lfoModDepth := p } }))

/-- GET_PARAM (44_engine_commands.md R97): RES0 gets `P[IDX]` as stored, or +0.0 for an index in 5..255; nothing else
changes. -/
def Obligations.GetParamReadsTheStoredValue : Prop :=
  ∀ (s : State) (idx : BitVec 8),
    exec (.getParam idx) s = .next
      { s with
        res0 :=
          if idx = 0#8 then s.params.cutoff else if idx = 1#8 then s.params.resonance
          else if idx = 2#8 then s.params.lfoWaveform else if idx = 3#8 then s.params.lfoFrequency
          else if idx = 4#8 then s.params.lfoModDepth else 0x00000000#32 }

/-- 44_engine_commands.md R104: what SET_PARAM stores, GET_PARAM returns bit for bit; a value outside the range comes
back as the end it was clamped to, and after a NaN the previous value comes back. -/
def Obligations.SetThenGetRoundTrip : Prop :=
  ∀ (s : State) (idx : BitVec 8) (v lo hi : F32), paramRange idx.toNat = some (lo, hi) →
    ∃ t u, exec (.setParam idx) { s with op0 := v } = .next t ∧ exec (.getParam idx) t = .next u ∧
      (fle lo v = true → fle v hi = true → u.res0 = v) ∧
      (flt v lo = true → u.res0 = lo) ∧
      (flt hi v = true → u.res0 = hi) ∧
      (isNaN v = true → some u.res0 = s.params.get idx.toNat)

/-- The end state does not depend on the order of two SET_PARAMs of different parameters (70_reset_and_hazards.md R124,
step 2). -/
def Obligations.SetParamsOfDifferentParametersCommute : Prop :=
  ∀ (s : State) (i j : BitVec 8) (v w : F32), i ≠ j →
    ∃ a b c d, exec (.setParam i) { s with op0 := v } = .next a ∧ exec (.setParam j) { a with op0 := w } = .next b ∧
      exec (.setParam j) { s with op0 := w } = .next c ∧ exec (.setParam i) { c with op0 := v } = .next d ∧
      { b with op0 := s.op0 } = { d with op0 := s.op0 }

/-- FRAME (44_engine_commands.md R98), the whole of it: the tick; where `P[4] != 0.0` one smoother step and the clamped
modulated cutoff to both filters (a NaN cutoff, which the spec's bounds exclude, is ignored by the setter, 43_filter.md
R84); one Direct Form I step of each filter (R86); and the results. All else is kept. -/
def Obligations.FrameProcessesOneStereoSample : Prop :=
  ∀ (s : State) (phase lfo z m : F32) (fl fr : Filter) (outL outR : F32),
    phase = frac (fadd s.osc.phase s.osc.inc) →
    lfo = wave s.osc.wave phase →
    z = fadd (fmul s.params.cutoff s.sm.b) (fmul s.sm.z s.sm.a) →
    m = clamp (fmul z (exp2F32 (fdiv (fmul lfo s.params.lfoModDepth) Config.centsPerOctave)))
          Config.cutMin Config.cutMax →
    fl = (if feq s.params.lfoModDepth f0 || isNaN m then s.fl
          else { s.fl with cut := m, coef := fltCoef m s.fl.res s.fl.fs }) →
    fr = (if feq s.params.lfoModDepth f0 || isNaN m then s.fr
          else { s.fr with cut := m, coef := fltCoef m s.fr.res s.fr.fs }) →
    outL = fsub (fsub (fadd (fadd (fmul fl.coef.b0 s.op0) (fmul fl.coef.b1 s.fl.x1)) (fmul fl.coef.b2 s.fl.x2))
             (fmul fl.coef.a1 s.fl.y1)) (fmul fl.coef.a2 s.fl.y2) →
    outR = fsub (fsub (fadd (fadd (fmul fr.coef.b0 s.op1) (fmul fr.coef.b1 s.fr.x1)) (fmul fr.coef.b2 s.fr.x2))
             (fmul fr.coef.a1 s.fr.y1)) (fmul fr.coef.a2 s.fr.y2) →
    exec .frame s = .next
      { s with
        osc := { s.osc with phase := phase }
        sm := if feq s.params.lfoModDepth f0 then s.sm else { s.sm with z := z }
        fl := { fl with x1 := s.op0, x2 := s.fl.x1, y1 := outL, y2 := s.fl.y1 }
        fr := { fr with x1 := s.op1, x2 := s.fr.x1, y1 := outR, y2 := s.fr.y1 }
        res0 := outL
        res1 := outR }

/-- With the depth at either zero, FRAME keeps the smoother, both cutoffs and all coefficients, and still ticks the LFO
(70_reset_and_hazards.md R126). -/
def Obligations.FrameAtZeroDepthKeepsTheCutoff : Prop :=
  ∀ s : State, s.params.lfoModDepth = 0x00000000#32 ∨ s.params.lfoModDepth = 0x80000000#32 →
    ∃ t, exec .frame s = .next t ∧ t.sm = s.sm ∧ t.fl.cut = s.fl.cut ∧ t.fr.cut = s.fr.cut ∧
      t.fl.coef = s.fl.coef ∧ t.fr.coef = s.fr.coef ∧ t.osc.phase = frac (fadd s.osc.phase s.osc.inc)

/-- Nothing of the left channel reaches the right channel, the LFO or the smoother, NaN and infinity included
(43_filter.md R88, 93_implementation_defined.md U1). -/
def Obligations.LeftChannelCannotReachTheRest : Prop :=
  ∀ (s : State) (x : F32) (x1 x2 y1 y2 : F32), ∃ t u,
    exec .frame s = .next t ∧
    exec .frame { s with op0 := x, fl := { s.fl with x1 := x1, x2 := x2, y1 := y1, y2 := y2 } } = .next u ∧
    u.fr = t.fr ∧ u.res1 = t.res1 ∧ u.osc = t.osc ∧ u.sm = t.sm ∧ u.params = t.params

/-- Equal inputs in both lanes from equal histories give equal outputs, bit for bit (44_engine_commands.md R100). That
this holds of NaN outputs too rests on the model's reading of R20 (log entry 2). -/
def Obligations.EqualLanesGiveEqualOutputs : Prop :=
  ∀ s : State, s.Inv → s.op0 = s.op1 → s.fl.x1 = s.fr.x1 → s.fl.x2 = s.fr.x2 → s.fl.y1 = s.fr.y1 →
    s.fl.y2 = s.fr.y2 → ∃ t, exec .frame s = .next t ∧ t.res0 = t.res1 ∧ t.fl = t.fr

/-- FRAME can change the cutoff of the filters without changing `P[0]` (10_state.md R35, the last sentence;
90_conflicts.md C1). -/
def Obligations.FrameCanMoveTheCutoffOffTheParameter : Prop :=
  ∃ s t : State, s.Inv ∧ s.fl.cut = s.params.cutoff ∧ exec .frame s = .next t ∧ t.params = s.params ∧
    t.fl.cut ≠ t.params.cutoff

/-! ### The sub-blocks -/

/-- The phase after a tick is in [0.0, 1.0), for every increment that is not negative, +inf included (42_oscillator.md
R74, decision D51). -/
def Obligations.TickKeepsThePhaseInTheUnitInterval : Prop :=
  ∀ osc : Oscillator, fle f0 osc.phase = true → flt osc.phase f1 = true → fle f0 osc.inc = true →
    fle f0 (oscTick osc).phase = true ∧ flt (oscTick osc).phase f1 = true

/-- `frac` is exact on the values that are not negative, and +0.0 at +inf (00_scope.md R17). -/
def Obligations.FracIsExact : Prop :=
  (∀ v : F32, isFinite v = true → sgn v = false →
    isFinite (frac v) = true ∧ value (frac v) = value v % 2 ^ 149) ∧
  frac 0x7F800000#32 = 0x00000000#32

/-- The increment is the quotient of rate and sample rate, and never 0.0 or negative (42_oscillator.md R72). -/
def Obligations.IncrementIsPositive : Prop :=
  ∀ s : State, s.Inv → s.osc.inc = fdiv s.osc.rate s.osc.fs ∧ flt f0 s.osc.inc = true

/-- The ranges of Triangle, Sine, Sawtooth and Square over [0, 1) (42_oscillator.md R75, R81 P1). -/
def Obligations.WaveformsStayInTheirRanges : Prop :=
  ∀ p : F32, fle f0 p = true → flt p f1 = true →
    (fle fNeg1 (wave .triangle p) = true ∧ fle (wave .triangle p) f1 = true) ∧
    (fle fNeg1 (wave .sine p) = true ∧ fle (wave .sine p) f1 = true) ∧
    (fle fNeg1 (wave .sawtooth p) = true ∧ flt (wave .sawtooth p) f1 = true) ∧
    (wave .square p = fNeg1 ∨ wave .square p = f1)

/-- The range of Exponential at a phase where the field `exp2_f32` answers in [1.0, 16.0). The hypothesis on the field is
needed: T4 of 00_scope.md R19 bounds it no further than positive and finite (log entry 16; 42_oscillator.md R80). -/
def Obligations.ExponentialStaysInItsRange : Prop :=
  ∀ p e : F32, e = exp2F32 (fmul f4 p) → fle f1 e = true → flt e 0x41800000#32 = true →
    fle fNeg1 (wave .exponential p) = true ∧ flt (wave .exponential p) f1 = true

/-- The values at the quarter phases that rest on no reference field (42_oscillator.md R76, R78, R79, R80). -/
def Obligations.WaveformValuesAtQuarterPhases : Prop :=
  [0x00000000#32, 0x3E800000#32, 0x3F000000#32, 0x3F400000#32].map (wave .triangle) =
    [0xBF800000#32, 0x00000000#32, 0x3F800000#32, 0x00000000#32] ∧
  [0x00000000#32, 0x3E800000#32, 0x3F000000#32, 0x3F400000#32].map (wave .sawtooth) =
    [0xBF800000#32, 0xBF000000#32, 0x00000000#32, 0x3F000000#32] ∧
  [0x00000000#32, 0x3E800000#32, 0x3F000000#32, 0x3F400000#32].map (wave .square) =
    [0x3F800000#32, 0x3F800000#32, 0xBF800000#32, 0xBF800000#32] ∧
  [0x00000000#32, 0x3E800000#32, 0x3F000000#32, 0x3F400000#32].map (wave .exponential) =
    [0xBF800000#32, 0xBF5DDDDE#32, 0xBF19999A#32, 0xBD888888#32]

/-- Zero in, zero out: from an all-zero history, +0.0 gives +0.0 for every coefficient set of 43_filter.md R82
(43_filter.md R86). -/
def Obligations.SilenceGivesSilence : Prop :=
  ∀ fc r fs : F32, within Config.cutMin Config.cutMax fc = true → within Config.resMin Config.resMax r = true →
    isPosFinite fs = true →
    fltOutput ⟨fs, fc, r, fltCoef fc r fs, f0, f0, f0, f0⟩ f0 = f0

/-- Resonance -0.0 gives exactly the coefficients of +0.0 (44_engine_commands.md R96). -/
def Obligations.NegativeZeroResonanceIsZeroResonance : Prop :=
  ∀ fc fs : F32, fltCoef fc 0x80000000#32 fs = fltCoef fc 0x00000000#32 fs

/-! ### Arithmetic -/

/-- Rounding is to nearest with ties to even, and to infinity from half a unit in the last place above the largest
finite value (00_scope.md R14). -/
def Obligations.RoundingIsToNearestTiesToEven : Prop :=
  (∀ num den m : Nat, 0 < den → m < magInf → roundMag num den < magInf →
    ((num : Int) - units (roundMag num den) * den).natAbs ≤ ((num : Int) - units m * den).natAbs ∧
    (((num : Int) - units (roundMag num den) * den).natAbs = ((num : Int) - units m * den).natAbs →
      m ≠ roundMag num den → roundMag num den % 2 = 0)) ∧
  (∀ num den : Nat, 0 < den →
    (roundMag num den = magInf ↔ (units (magInf - 1) + units magInf) * den ≤ 2 * num))

/-- Each operation on finite operands rounds its exact result once (00_scope.md R14): values in units of 2^-149. -/
def Obligations.FiniteOperationsRoundTheirExactResult : Prop :=
  ∀ a b : F32, isFinite a = true → isFinite b = true →
    (value a + value b ≠ 0 →
      fadd a b = withSign (decide (value a + value b < 0)) (roundMag (value a + value b).natAbs 1)) ∧
    (value a - value b ≠ 0 →
      fsub a b = withSign (decide (value a - value b < 0)) (roundMag (value a - value b).natAbs 1)) ∧
    (value a * value b ≠ 0 →
      fmul a b = withSign (decide (value a * value b < 0)) (roundMag (value a * value b).natAbs (2 ^ 149))) ∧
    (value a ≠ 0 → value b ≠ 0 →
      fdiv a b = withSign (decide (value a * value b < 0))
        (roundMag ((value a).natAbs * 2 ^ 149) (value b).natAbs))

/-- Where the exact result is zero, a divisor is zero, or an operand is infinite or a NaN: what each operation answers.
00_scope.md R14 only names the IEEE 754 operations; the signs of zeros, the infinities and the cases that give a NaN are
taken from IEEE 754 itself (log entry 18). With the cases of FiniteOperationsRoundTheirExactResult these
are all operands. -/
def Obligations.ZerosInfinitiesAndNaNsFollowIEEE : Prop :=
  (∀ a b : F32, isNaN a = true ∨ isNaN b = true →
    isNaN (fadd a b) = true ∧ isNaN (fsub a b) = true ∧ isNaN (fmul a b) = true ∧ isNaN (fdiv a b) = true) ∧
  (∀ a b : F32, isFinite a = true → isFinite b = true →
    (value a + value b = 0 → fadd a b = withSign (sgn a && sgn b) 0) ∧
    (value a - value b = 0 → fsub a b = withSign (sgn a && !sgn b) 0) ∧
    (value a * value b = 0 → fmul a b = withSign (sgn a != sgn b) 0) ∧
    (value a = 0 → value b ≠ 0 → fdiv a b = withSign (sgn a != sgn b) 0) ∧
    (value a ≠ 0 → value b = 0 → fdiv a b = withSign (sgn a != sgn b) magInf) ∧
    (value a = 0 → value b = 0 → isNaN (fdiv a b) = true)) ∧
  (∀ a b : F32, isInf a = true → isFinite b = true →
    fadd a b = a ∧ fadd b a = a ∧ fsub a b = a ∧ fsub b a = fneg a ∧
    (value b ≠ 0 → fmul a b = withSign (sgn a != sgn b) magInf ∧ fmul b a = withSign (sgn a != sgn b) magInf) ∧
    (value b = 0 → isNaN (fmul a b) = true ∧ isNaN (fmul b a) = true) ∧
    fdiv a b = withSign (sgn a != sgn b) magInf ∧ fdiv b a = withSign (sgn a != sgn b) 0) ∧
  (∀ a b : F32, isInf a = true → isInf b = true →
    (sgn a = sgn b → fadd a b = a ∧ isNaN (fsub a b) = true) ∧
    (sgn a ≠ sgn b → isNaN (fadd a b) = true ∧ fsub a b = a) ∧
    fmul a b = withSign (sgn a != sgn b) magInf ∧ isNaN (fdiv a b) = true)

/-- 00_scope.md R16: with a NaN operand every comparison is false except `!=`; finite values compare as their exact
values; +inf stands above and -inf below everything else that is no NaN, each equal to itself alone. `a > b` is `flt b a`
and `a >= b` is `fle b a`. -/
def Obligations.ComparisonsFollowTheValues : Prop :=
  (∀ v : F32, (isNaN v = true ↔ v.extractLsb' 23 8 = 0xFF#8 ∧ v.extractLsb' 0 23 ≠ 0#23) ∧
    (isFinite v = true ↔ v.extractLsb' 23 8 ≠ 0xFF#8)) ∧
  (∀ a b : F32, isNaN a = true ∨ isNaN b = true →
    flt a b = false ∧ fle a b = false ∧ feq a b = false ∧ fne a b = true) ∧
  (∀ a b : F32, isFinite a = true → isFinite b = true →
    (flt a b = true ↔ value a < value b) ∧ (fle a b = true ↔ value a ≤ value b) ∧
    (feq a b = true ↔ value a = value b) ∧ (fne a b = true ↔ value a ≠ value b)) ∧
  (∀ a : F32, isNaN a = false →
    (flt a 0x7F800000#32 = true ↔ a ≠ 0x7F800000#32) ∧ flt 0x7F800000#32 a = false ∧
    fle a 0x7F800000#32 = true ∧ (fle 0x7F800000#32 a = true ↔ a = 0x7F800000#32) ∧
    (feq a 0x7F800000#32 = true ↔ a = 0x7F800000#32) ∧ (feq 0x7F800000#32 a = true ↔ a = 0x7F800000#32) ∧
    (fne a 0x7F800000#32 = true ↔ a ≠ 0x7F800000#32) ∧ (fne 0x7F800000#32 a = true ↔ a ≠ 0x7F800000#32)) ∧
  (∀ a : F32, isNaN a = false →
    (flt 0xFF800000#32 a = true ↔ a ≠ 0xFF800000#32) ∧ flt a 0xFF800000#32 = false ∧
    fle 0xFF800000#32 a = true ∧ (fle a 0xFF800000#32 = true ↔ a = 0xFF800000#32) ∧
    (feq a 0xFF800000#32 = true ↔ a = 0xFF800000#32) ∧ (feq 0xFF800000#32 a = true ↔ a = 0xFF800000#32) ∧
    (fne a 0xFF800000#32 = true ↔ a ≠ 0xFF800000#32) ∧ (fne 0xFF800000#32 a = true ↔ a ≠ 0xFF800000#32)) ∧
  feq 0x80000000#32 0x00000000#32 = true

/-- What an operation or a field returns is no NaN or a quiet one: bit 22 is set (00_scope.md R20). -/
def Obligations.NaNResultsAreQuiet : Prop :=
  (∀ a b : F32,
    (isNaN (fadd a b) = false ∨ (fadd a b).getLsbD 22 = true) ∧
    (isNaN (fsub a b) = false ∨ (fsub a b).getLsbD 22 = true) ∧
    (isNaN (fmul a b) = false ∨ (fmul a b).getLsbD 22 = true) ∧
    (isNaN (fdiv a b) = false ∨ (fdiv a b).getLsbD 22 = true)) ∧
  (∀ x : F32,
    (isNaN (expF32 x) = false ∨ (expF32 x).getLsbD 22 = true) ∧
    (isNaN (exp2F32 x) = false ∨ (exp2F32 x).getLsbD 22 = true) ∧
    (isNaN (sinF32 x) = false ∨ (sinF32 x).getLsbD 22 = true) ∧
    (isNaN (cosF32 x) = false ∨ (cosF32 x).getLsbD 22 = true))

/-- The properties T2 to T5 of 00_scope.md R19; T1 is that the four are functions. That T2 is read at the encoding +0.0,
and that T3 counts -0.0 as the integer 0, is the model's choice (log entry 1). -/
def Obligations.TranscendentalFieldsMeetTheirProperties : Prop :=
  (expF32 f0 = f1 ∧ exp2F32 f0 = f1 ∧ sinF32 f0 = f0 ∧ cosF32 f0 = f1) ∧
  (∀ (x : F32) (n : Int), isFinite x = true → value x = n * 2 ^ 149 → -126 ≤ n → n ≤ 127 →
    isFinite (exp2F32 x) = true ∧ value (exp2F32 x) = 2 ^ (149 + n).toNat) ∧
  (∀ x : F32, fle x f0 = true → fle f0 (expF32 x) = true ∧ fle (expF32 x) f1 = true) ∧
  (∀ x : F32, fle 0xC1100000#32 x = true → fle x 0x41100000#32 = true →
    isFinite (exp2F32 x) = true ∧ flt f0 (exp2F32 x) = true) ∧
  (∀ x : F32, isFinite x = true →
    (fle fNeg1 (sinF32 x) = true ∧ fle (sinF32 x) f1 = true) ∧
    (fle fNeg1 (cosF32 x) = true ∧ fle (cosF32 x) f1 = true))

/-- 00_scope.md R18: a rate that is finite and positive stands, and any other (not positive, NaN, an infinity) becomes
44100.0. -/
def Obligations.CoercedRateIsValid : Prop :=
  (∀ fs : F32, isFinite fs = true → flt f0 fs = true → coerceFs fs = fs) ∧
  (∀ fs : F32, fle fs f0 = true ∨ isNaN fs = true ∨ isInf fs = true → coerceFs fs = 0x472C4400#32) ∧
  (∀ fs : F32, isFinite (coerceFs fs) = true ∧ flt f0 (coerceFs fs) = true)

/-- Every numeric row of 00_scope.md R8, in its order: each constant holds the encoding the row prints, and that encoding
is the binary32 nearest to the row's value (R15), 2π and 1/√2 being taken to sixteen digits and Q_SPAN as the rounded
difference. That these literals, which R7 calls unaudited, are the ones to hold is log entry 4. -/
def Obligations.ConstantsAreTheNearestValues : Prop :=
  [Config.fsDefault, Config.cutMin, Config.cutMax, Config.resMin, Config.resMax, Config.waveMin, Config.waveMax,
    Config.rateMin, Config.rateMax, Config.depthMin, Config.depthMax, Config.centsPerOctave, Config.cutDefault,
    Config.resDefault, Config.waveDefault, Config.rateDefault, Config.depthDefault, Config.msToS, Config.twoPi,
    Config.smoothTimeMs, Config.expK, Config.expDen, Config.qMin, Config.qMax, Config.qSpan, Config.nyqGuard] =
  [0x472C4400#32, 0x41A00000#32, 0x469C4000#32, 0x00000000#32, 0x3F800000#32, 0x00000000#32, 0x40800000#32,
    0x3C23D70A#32, 0x41C80000#32, 0xC628C000#32, 0x4628C000#32, 0x44960000#32, 0x466A6000#32,
    0x00000000#32, 0x00000000#32, 0x3F800000#32, 0x00000000#32, 0x3A83126F#32, 0x40C90FDB#32,
    0x41200000#32, 0x40800000#32, 0x41700000#32, 0x3F3504F3#32, 0x41200000#32, 0x4114AFB1#32, 0x3EFAE148#32] ∧
  [Config.fsDefault, Config.cutMin, Config.cutMax, Config.resMin, Config.resMax, Config.waveMin, Config.waveMax,
    Config.rateMin, Config.rateMax, Config.depthMin, Config.depthMax, Config.centsPerOctave, Config.cutDefault,
    Config.resDefault, Config.waveDefault, Config.rateDefault, Config.depthDefault, Config.msToS, Config.twoPi,
    Config.smoothTimeMs, Config.expK, Config.expDen, Config.qMin, Config.qMax, Config.qSpan, Config.nyqGuard] =
  [ofRatio false 44100 1, ofRatio false 20 1, ofRatio false 20000 1, ofRatio false 0 1, ofRatio false 1 1,
    ofRatio false 0 1, ofRatio false 4 1, ofRatio false 1 100, ofRatio false 25 1, ofRatio true 10800 1,
    ofRatio false 10800 1, ofRatio false 1200 1, ofRatio false 15000 1, ofRatio false 0 1, ofRatio false 0 1,
    ofRatio false 1 1, ofRatio false 0 1, ofRatio false 1 1000, ofRatio false 6283185307179586 1000000000000000,
    ofRatio false 10 1, ofRatio false 4 1, ofRatio false 15 1, ofRatio false 7071067811865475 10000000000000000,
    ofRatio false 10 1, fsub Config.qMax Config.qMin, ofRatio false 49 100] ∧
  Config.numParams = 5

/-! ### The host's side -/

/-- 30_encoding.md R63: the bus expansion of each command, served, writes the operands, runs the command and returns its
results to the host. -/
def Obligations.BusExpansionRunsTheCommand : Prop :=
  ∀ (s : State) (rest : List HostEvent),
    (core.run 1 { s with pending := lineEvents .nop ++ rest } = .next { s with pending := rest }) ∧
    (∀ fs, ∃ u, exec .init { s with op0 := fs, pending := rest } = .next u ∧
      core.run 2 { s with pending := lineEvents (.init fs) ++ rest } = .next u) ∧
    (∀ fs, ∃ u, exec .setFs { s with op0 := fs, pending := rest } = .next u ∧
      core.run 2 { s with pending := lineEvents (.setFs fs) ++ rest } = .next u) ∧
    (∃ u, exec .loadDefaults { s with pending := rest } = .next u ∧
      core.run 1 { s with pending := lineEvents .loadDefaults ++ rest } = .next u) ∧
    (∀ i v, ∃ u, exec (.setParam i) { s with op0 := v, pending := rest } = .next u ∧
      core.run 2 { s with pending := lineEvents (.setParam i v) ++ rest } = .next u) ∧
    (∀ i, ∃ u, exec (.getParam i) { s with pending := rest } = .next u ∧
      core.run 2 { s with pending := lineEvents (.getParam i) ++ rest } =
        .next { u with readLog := u.res0 :: s.readLog }) ∧
    (∀ l r, ∃ u, exec .frame { s with op0 := l, op1 := r, pending := rest } = .next u ∧
      core.run 5 { s with pending := lineEvents (.frame l r) ++ rest } =
        .next { u with readLog := u.res1 :: u.res0 :: s.readLog })

/-- 44_engine_commands.md R99: PROCESS over any list of frames, served, is its FRAMEs in order: the state after it and
the pairs of results the host has read. -/
def Obligations.ProcessIsItsFramesInOrder : Prop :=
  ∀ (frames : List (F32 × F32)) (s : State) (rest : List HostEvent),
    core.run (5 * frames.length) { s with pending := pseudoEvents (.process frames) ++ rest } =
      .next { processFrames frames s with pending := rest }

/-- Under either byte order, splitting a word into four bytes and joining four bytes are inverse to each other. The bridge
lies outside the block: its two functions and its two byte orders are the model's choice (log entry 9), and 20_memory.md
R43 leaves BRIDGE_ENDIAN open. -/
def Obligations.BridgeCarriesWholeWords : Prop :=
  (∀ w : Word, bridgeWord (bridgeBytes w)[0] (bridgeBytes w)[1] (bridgeBytes w)[2] (bridgeBytes w)[3] = w) ∧
  (∀ b0 b1 b2 b3 : Byte, bridgeBytes (bridgeWord b0 b1 b2 b3) = #v[b0, b1, b2, b3])
end

