-- ==== Sys2Proof/Laws/Binary32.lean ====
section
/-! SUPPORT. What the binary32 operations do: fields of an encoding, the magnitudes as integers, the two bounds from
which every fact about rounding follows, and each operation on finite operands. -/

namespace Sys2Proof.Machine

/-! ### Fields of an encoding -/

theorem mag_lt (x : F32) : mag x < 2 ^ 31 := Nat.mod_lt _ (by decide)

theorem mag_withSign (s : Bool) (m : Nat) (h : m ≤ magInf) : mag (withSign s m) = m := by
  unfold magInf at h
  cases s <;> simp [mag, withSign] <;> omega

theorem sgn_withSign (s : Bool) (m : Nat) (h : m ≤ magInf) : sgn (withSign s m) = s := by
  unfold magInf at h
  cases s <;> simp [sgn, withSign] <;> omega

theorem isNaN_withSign (s : Bool) (m : Nat) (h : m ≤ magInf) : isNaN (withSign s m) = false := by
  simp [isNaN, mag_withSign s m h]; exact h

theorem isFinite_withSign (s : Bool) (m : Nat) (h : m < magInf) : isFinite (withSign s m) = true := by
  simp [isFinite, mag_withSign s m h.le, h]

theorem toNat_eq_sgn_mag (x : F32) : x.toNat = (if sgn x then 2 ^ 31 else 0) + mag x := by
  have h := x.isLt
  unfold sgn mag
  by_cases hs : 2 ^ 31 ≤ x.toNat
  · rw [if_pos (by simpa using hs)]; omega
  · rw [if_neg (by simpa using hs)]; omega

/-- An encoding is its sign and its magnitude field. -/
theorem ext_sgn_mag {x y : F32} (hs : sgn x = sgn y) (hm : mag x = mag y) : x = y := by
  apply BitVec.eq_of_toNat_eq
  rw [toNat_eq_sgn_mag x, toNat_eq_sgn_mag y, hs, hm]

theorem withSign_sgn_mag (x : F32) : withSign (sgn x) (mag x) = x := by
  apply BitVec.eq_of_toNat_eq
  have h := toNat_eq_sgn_mag x
  have hx := x.isLt
  cases hs : sgn x <;> simp [hs, withSign] at * <;> omega

theorem isFinite_of_mag {x : F32} (h : isFinite x = true) : mag x < magInf := by simpa [isFinite] using h

theorem isNaN_false_of_finite {x : F32} (h : isFinite x = true) : isNaN x = false := by
  have := isFinite_of_mag h
  simp [isNaN]; omega

theorem isInf_false_of_finite {x : F32} (h : isFinite x = true) : isInf x = false := by
  have := isFinite_of_mag h
  simp [isInf]; omega

theorem mag_fneg (x : F32) : mag (fneg x) = mag x := by
  have h : (fneg x).toNat % 2 ^ 31 = x.toNat % 2 ^ 31 := by
    simp only [fneg, BitVec.toNat_xor]
    apply Nat.eq_of_testBit_eq
    intro i
    rw [Nat.testBit_mod_two_pow, Nat.testBit_mod_two_pow, Nat.testBit_xor]
    by_cases hi : i < 31
    · have : (0x80000000#32).toNat = 2 ^ 31 := rfl
      rw [this, Nat.testBit_two_pow]
      have hne : ¬ (31 = i) := by omega
      simp [hi, hne]
    · simp [hi]
  exact h

theorem sgn_eq_msb (x : F32) : sgn x = x.msb := by
  simp [sgn, BitVec.msb_eq_decide]

theorem sgn_fneg (x : F32) : sgn (fneg x) = !sgn x := by
  rw [sgn_eq_msb, sgn_eq_msb, fneg, BitVec.msb_xor]
  have : (0x80000000#32).msb = true := by decide
  rw [this]
  simp

theorem isNaN_fneg (x : F32) : isNaN (fneg x) = isNaN x := by simp [isNaN, mag_fneg]

theorem isInf_fneg (x : F32) : isInf (fneg x) = isInf x := by simp [isInf, mag_fneg]

theorem mag_of_isInf {x : F32} (h : isInf x = true) : mag x = magInf := by simpa [isInf] using h

theorem isNaN_false_of_inf {x : F32} (h : isInf x = true) : isNaN x = false := by simp [isNaN, mag_of_isInf h]

theorem isZero_false_of_inf {x : F32} (h : isInf x = true) : isZero x = false := by
  simp [isZero, mag_of_isInf h, magInf]

/-- The result of an invalid operation is a NaN, whatever the free bits are. -/
theorem isNaN_nanOf (op : Config.FpOp) (a b : F32) : isNaN (nanOf op a b) = true := by
  have h : 0x7FC00000 ≤ mag (nanOf op a b) := by
    unfold mag nanOf
    rw [BitVec.toNat_or, Nat.or_mod_two_pow]
    exact Nat.right_le_or
  have h2 : magInf < mag (nanOf op a b) := by unfold magInf; omega
  simp [isNaN, h2]

/-! ### Magnitudes as integers -/

/-- The exponent of the last place of the encoding with magnitude field `m`, in units of 2^-149. -/
def lastPlace (m : Nat) : Nat := m / 2 ^ 23 - 1

/-- The significand of the encoding with magnitude field `m`, with the hidden bit. -/
def signif (m : Nat) : Nat := m - lastPlace m * 2 ^ 23

theorem signif_lt (m : Nat) : signif m < 2 ^ 24 := by unfold signif lastPlace; omega

theorem le_signif {m : Nat} (h : 0 < lastPlace m) : 2 ^ 23 ≤ signif m := by
  unfold signif lastPlace at *; omega

theorem lastPlace_add_signif (m : Nat) : lastPlace m * 2 ^ 23 + signif m = m := by
  unfold signif lastPlace; omega

theorem units_eq (m : Nat) : units m = signif m * 2 ^ lastPlace m := by
  unfold units
  split
  · have h0 : lastPlace m = 0 := by unfold lastPlace; omega
    simp [signif, h0]
  · have : 2 ^ 23 + m % 2 ^ 23 = signif m := by unfold signif lastPlace; omega
    rw [this]; rfl

theorem units_zero : units 0 = 0 := rfl

theorem units_lt_units {m n : Nat} (h : m < n) : units m < units n := by
  rw [units_eq, units_eq]
  have hm := lastPlace_add_signif m
  have hn := lastPlace_add_signif n
  have hle : lastPlace m ≤ lastPlace n := by unfold lastPlace; omega
  rcases Nat.lt_or_ge (lastPlace m) (lastPlace n) with hlt | hge
  · have h1 : 2 ^ 23 ≤ signif n := le_signif (by omega)
    calc signif m * 2 ^ lastPlace m < 2 ^ 24 * 2 ^ lastPlace m :=
          Nat.mul_lt_mul_of_pos_right (signif_lt m) (Nat.two_pow_pos _)
      _ = 2 ^ 23 * 2 ^ (lastPlace m + 1) := by rw [Nat.pow_succ]; ring
      _ ≤ 2 ^ 23 * 2 ^ lastPlace n := Nat.mul_le_mul_left _ (Nat.pow_le_pow_right (by decide) hlt)
      _ ≤ signif n * 2 ^ lastPlace n := Nat.mul_le_mul_right _ h1
  · have he : lastPlace m = lastPlace n := le_antisymm hle hge
    rw [he] at hm ⊢
    exact Nat.mul_lt_mul_of_pos_right (by omega) (Nat.two_pow_pos _)

theorem units_le_units {m n : Nat} (h : m ≤ n) : units m ≤ units n := by
  rcases Nat.lt_or_eq_of_le h with h | h
  · exact (units_lt_units h).le
  · rw [h]

theorem lt_of_units_lt {m n : Nat} (h : units m < units n) : m < n := by
  by_contra hc
  exact absurd (units_le_units (Nat.le_of_not_lt hc)) (by omega)

theorem units_inj {m n : Nat} (h : units m = units n) : m = n := by
  rcases Nat.lt_trichotomy m n with hlt | heq | hgt
  · have := units_lt_units hlt; omega
  · exact heq
  · have := units_lt_units hgt; omega

theorem units_pos {m : Nat} (h : 0 < m) : 0 < units m := units_lt_units h

theorem units_eq_zero {m : Nat} : units m = 0 ↔ m = 0 :=
  ⟨fun h => by by_contra hc; have := units_pos (Nat.pos_of_ne_zero hc); omega, fun h => by rw [h]; rfl⟩

/-! ### Rounding -/

theorem roundMag_le_inf (num den : Nat) : roundMag num den ≤ magInf := Nat.min_le_right _ _

theorem div_le_roundQuot (num den : Nat) : num / den ≤ roundQuot num den := by
  unfold roundQuot; split <;> omega

theorem roundQuot_le_succ (num den : Nat) : roundQuot num den ≤ num / den + 1 := by
  unfold roundQuot; split <;> omega

theorem roundQuot_le {num den n : Nat} (hd : 0 < den) (h : num ≤ n * den) : roundQuot num den ≤ n := by
  have hq : num / den ≤ n := (Nat.div_le_div_right h).trans_eq (Nat.mul_div_cancel n hd)
  rcases Nat.lt_or_eq_of_le hq with hlt | heq
  · exact (roundQuot_le_succ num den).trans hlt
  · have hmod : num % den = 0 := by
      have h1 := Nat.div_add_mod num den
      rw [heq, Nat.mul_comm] at h1
      omega
    unfold roundQuot
    rw [hmod, heq]
    split
    · rename_i hc; omega
    · exact le_refl n

theorem lt_two_pow_ulpShift (q : Nat) : q < 2 ^ (24 + ulpShift q) := by
  unfold ulpShift
  have h1 : q < 2 ^ (q.log2 + 1) := Nat.lt_log2_self
  exact h1.trans_le (Nat.pow_le_pow_right (by decide) (by omega))

theorem two_pow_ulpShift_le {q : Nat} (h : 0 < ulpShift q) : 2 ^ (23 + ulpShift q) ≤ q := by
  unfold ulpShift at *
  have hq : q ≠ 0 := by rintro rfl; simp at h
  have h1 : 2 ^ q.log2 ≤ q := Nat.log2_self_le hq
  have : 23 + (q.log2 - 23) = q.log2 := by omega
  rwa [this]

theorem div_shift (num den k : Nat) : num / (den * 2 ^ k) = num / den / 2 ^ k := (Nat.div_div_eq_div_mul num den _).symm

/-- The significand before rounding has at most 24 bits. -/
theorem quot_lt (num den : Nat) : num / (den * 2 ^ ulpShift (num / den)) < 2 ^ 24 := by
  rw [div_shift, Nat.div_lt_iff_lt_mul (Nat.two_pow_pos _), ← Nat.pow_add]
  exact lt_two_pow_ulpShift _

theorem le_quot {num den : Nat} (h : 0 < ulpShift (num / den)) :
    2 ^ 23 ≤ num / (den * 2 ^ ulpShift (num / den)) := by
  rw [div_shift, Nat.le_div_iff_mul_le (Nat.two_pow_pos _), ← Nat.pow_add]
  exact two_pow_ulpShift_le h

/-- Rounding up stops at any representable value that is not below: LOWER BOUND of a rounded result. -/
theorem le_roundMag {num den n : Nat} (hd : 0 < den) (hn : n ≤ magInf) (h : units n * den ≤ num) :
    n ≤ roundMag num den := by
  apply Nat.le_min.mpr ⟨?_, hn⟩
  have hq : units n ≤ num / den := (Nat.le_div_iff_mul_le hd).mpr h
  rw [units_eq] at hq
  have hsum := lastPlace_add_signif n
  have hround := div_le_roundQuot num (den * 2 ^ ulpShift (num / den))
  rcases Nat.lt_trichotomy (lastPlace n) (ulpShift (num / den)) with hlt | heq | hgt
  · have h1 := le_quot (num := num) (den := den) (by omega)
    have h2 := signif_lt n
    have h3 : (lastPlace n + 1) * 2 ^ 23 ≤ ulpShift (num / den) * 2 ^ 23 := Nat.mul_le_mul_right _ hlt
    omega
  · have h1 : signif n ≤ num / (den * 2 ^ ulpShift (num / den)) := by
      rw [div_shift, Nat.le_div_iff_mul_le (Nat.two_pow_pos _), ← heq]
      exact hq
    rw [← heq] at hround h1 ⊢
    omega
  · have h1 : 2 ^ 23 ≤ signif n := le_signif (by omega)
    have h2 := lt_two_pow_ulpShift (num / den)
    have h3 : 2 ^ (24 + ulpShift (num / den)) ≤ signif n * 2 ^ lastPlace n :=
      calc 2 ^ (24 + ulpShift (num / den)) ≤ 2 ^ (23 + lastPlace n) := Nat.pow_le_pow_right (by decide) (by omega)
        _ = 2 ^ 23 * 2 ^ lastPlace n := by rw [Nat.pow_add]
        _ ≤ signif n * 2 ^ lastPlace n := Nat.mul_le_mul_right _ h1
    omega

/-- Rounding never passes a representable value that is not below the exact one: UPPER BOUND of a rounded result. -/
theorem roundMag_le {num den n : Nat} (hd : 0 < den) (h : num ≤ units n * den) : roundMag num den ≤ n := by
  apply (Nat.min_le_left _ _).trans
  have hq : num / den ≤ units n := (Nat.div_le_div_right h).trans_eq (Nat.mul_div_cancel _ hd)
  rw [units_eq] at hq h
  have hsum := lastPlace_add_signif n
  have hsucc := roundQuot_le_succ num (den * 2 ^ ulpShift (num / den))
  have hquot := quot_lt num den
  rcases Nat.lt_trichotomy (lastPlace n) (ulpShift (num / den)) with hlt | heq | hgt
  · have h1 := two_pow_ulpShift_le (q := num / den) (by omega)
    have h2 : signif n * 2 ^ lastPlace n < 2 ^ (23 + ulpShift (num / den)) :=
      calc signif n * 2 ^ lastPlace n < 2 ^ 24 * 2 ^ lastPlace n :=
            Nat.mul_lt_mul_of_pos_right (signif_lt n) (Nat.two_pow_pos _)
        _ = 2 ^ (24 + lastPlace n) := by rw [Nat.pow_add]
        _ ≤ 2 ^ (23 + ulpShift (num / den)) := Nat.pow_le_pow_right (by decide) (by omega)
    omega
  · have h1 : roundQuot num (den * 2 ^ ulpShift (num / den)) ≤ signif n := by
      apply roundQuot_le (Nat.mul_pos hd (Nat.two_pow_pos _))
      rw [← heq]
      calc num ≤ signif n * 2 ^ lastPlace n * den := h
        _ = signif n * (den * 2 ^ lastPlace n) := by ring
    rw [← heq] at h1 ⊢
    omega
  · have h1 : 2 ^ 23 ≤ signif n := le_signif (by omega)
    have h3 : (ulpShift (num / den) + 1) * 2 ^ 23 ≤ lastPlace n * 2 ^ 23 := Nat.mul_le_mul_right _ hgt
    omega

/-- A representable value is its own rounding. -/
theorem roundMag_exact {den n : Nat} (hd : 0 < den) (hn : n ≤ magInf) : roundMag (units n * den) den = n :=
  le_antisymm (roundMag_le hd (le_refl _)) (le_roundMag hd hn (le_refl _))

theorem roundMag_zero (den : Nat) : roundMag 0 den = 0 := by
  simp [roundMag, roundQuot, ulpShift]

/-- Every significand of 24 bits is representable at every exponent. -/
theorem exists_units (M k : Nat) (hM : M < 2 ^ 24) : ∃ m, units m = M * 2 ^ k := by
  induction k generalizing M with
  | zero =>
    rcases Nat.lt_or_ge M (2 ^ 23) with h | h
    · exact ⟨M, by rw [units, if_pos h]; simp⟩
    · refine ⟨M, ?_⟩
      rw [units_eq]
      have h0 : lastPlace M = 0 := by unfold lastPlace; omega
      simp [signif, h0]
  | succ k ih =>
    rcases Nat.lt_or_ge M (2 ^ 23) with h | h
    · obtain ⟨m, hm⟩ := ih (2 * M) (by omega)
      exact ⟨m, by rw [hm, Nat.pow_succ]; ring⟩
    · refine ⟨(k + 1) * 2 ^ 23 + M, ?_⟩
      have h0 : lastPlace ((k + 1) * 2 ^ 23 + M) = k + 1 := by unfold lastPlace; omega
      rw [units_eq, signif, h0, Nat.add_sub_cancel_left]

/-! ### Order -/

theorem value_eq (x : F32) : value x = if sgn x then -(units (mag x) : Int) else (units (mag x) : Int) := rfl

theorem key_lt_iff_value_lt (x y : F32) : key x < key y ↔ value x < value y := by
  have huv := @lt_of_units_lt (mag x) (mag y)
  have hvu := @lt_of_units_lt (mag y) (mag x)
  have hxy := @units_lt_units (mag x) (mag y)
  have hyx := @units_lt_units (mag y) (mag x)
  have hx0 := @units_eq_zero (mag x)
  have hy0 := @units_eq_zero (mag y)
  unfold key value
  cases sgn x <;> cases sgn y <;> simp <;> omega

theorem key_le_iff_value_le (x y : F32) : key x ≤ key y ↔ value x ≤ value y := by
  have := key_lt_iff_value_lt y x
  omega

theorem key_eq_iff_value_eq (x y : F32) : key x = key y ↔ value x = value y := by
  have h1 := key_lt_iff_value_lt y x
  have h2 := key_lt_iff_value_lt x y
  omega

theorem ordered_of_finite {x y : F32} (hx : isFinite x = true) (hy : isFinite y = true) : ordered x y = true := by
  simp [ordered, isNaN_false_of_finite hx, isNaN_false_of_finite hy]

theorem flt_iff {x y : F32} : flt x y = true ↔ isNaN x = false ∧ isNaN y = false ∧ key x < key y := by
  simp [flt, ordered, and_assoc]

theorem fle_iff {x y : F32} : fle x y = true ↔ isNaN x = false ∧ isNaN y = false ∧ key x ≤ key y := by
  simp [fle, ordered, and_assoc]

theorem feq_iff {x y : F32} : feq x y = true ↔ isNaN x = false ∧ isNaN y = false ∧ key x = key y := by
  simp [feq, ordered, and_assoc]

/-- Comparison leaves one encoding for each value but zero. -/
theorem eq_of_key_eq {x y : F32} (h : key x = key y) (hx : key x ≠ 0) : x = y := by
  unfold key at *
  have : sgn x = sgn y := by
    revert h hx; cases sgn x <;> cases sgn y <;> simp <;> omega
  refine ext_sgn_mag this ?_
  revert h; rw [this]; cases sgn y <;> simp

theorem value_eq_zero_iff (x : F32) : value x = 0 ↔ isZero x = true := by
  have := @units_eq_zero (mag x)
  unfold value isZero
  split <;> simp <;> omega

/-- Everything that is no NaN lies between the infinities. -/
theorem key_bounds {x : F32} (h : isNaN x = false) : -(magInf : Int) ≤ key x ∧ key x ≤ magInf := by
  have hm : mag x ≤ magInf := by simpa [isNaN] using h
  unfold key
  split <;> omega

theorem eq_posInf_iff (x : F32) : x = 0x7F800000#32 ↔ key x = magInf := by
  constructor
  · rintro rfl; decide
  · intro h
    exact eq_of_key_eq (h.trans (by decide)) (by rw [h]; decide)

theorem eq_negInf_iff (x : F32) : x = 0xFF800000#32 ↔ key x = -magInf := by
  constructor
  · rintro rfl; decide
  · intro h
    exact eq_of_key_eq (h.trans (by decide)) (by rw [h]; decide)

/-! ### Helper functions -/

/-- `clamp` answers inside its range, whatever a non-NaN value is. -/
theorem clamp_bounds {v lo hi : F32} (hv : isNaN v = false) (h : fle lo hi = true) :
    fle lo (clamp v lo hi) = true ∧ fle (clamp v lo hi) hi = true := by
  obtain ⟨hlo, hhi, hle⟩ := fle_iff.mp h
  unfold clamp
  split
  · exact ⟨fle_iff.mpr ⟨hlo, hlo, le_refl _⟩, h⟩
  · rename_i h1
    split
    · exact ⟨h, fle_iff.mpr ⟨hhi, hhi, le_refl _⟩⟩
    · rename_i h2
      rw [flt_iff] at h1 h2
      push Not at h1 h2
      exact ⟨fle_iff.mpr ⟨hlo, hv, h1 hv hlo⟩, fle_iff.mpr ⟨hv, hhi, h2 hhi hv⟩⟩

/-- `clamp` leaves a value of its range as it is, bit for bit. -/
theorem clamp_of_bounds {v lo hi : F32} (h1 : fle lo v = true) (h2 : fle v hi = true) : clamp v lo hi = v := by
  obtain ⟨_, _, h1⟩ := fle_iff.mp h1
  obtain ⟨_, _, h2⟩ := fle_iff.mp h2
  have a : flt v lo = false := by
    rw [Bool.eq_false_iff, Ne, flt_iff]; rintro ⟨_, _, h⟩; omega
  have b : flt hi v = false := by
    rw [Bool.eq_false_iff, Ne, flt_iff]; rintro ⟨_, _, h⟩; omega
  simp [clamp, a, b]

theorem coerceFs_cases (fs : F32) :
    (isFinite fs = true ∧ flt f0 fs = true ∧ coerceFs fs = fs) ∨ coerceFs fs = Config.fsDefault := by
  unfold coerceFs
  split
  · rename_i h; simp at h; exact .inl ⟨h.1, h.2, rfl⟩
  · exact .inr rfl

/-! ### The operations on finite operands -/

theorem fadd_of_finite {a b : F32} (ha : isFinite a = true) (hb : isFinite b = true) : fadd a b = addFinite a b := by
  simp [fadd, addOr, isNaN_false_of_finite ha, isNaN_false_of_finite hb, isInf_false_of_finite ha,
    isInf_false_of_finite hb]

theorem isFinite_fneg (x : F32) : isFinite (fneg x) = isFinite x := by simp [isFinite, mag_fneg]

theorem fsub_of_finite {a b : F32} (ha : isFinite a = true) (hb : isFinite b = true) :
    fsub a b = addFinite a (fneg b) := by
  have hb' : isFinite (fneg b) = true := by rw [isFinite_fneg, hb]
  simp [fsub, addOr, isNaN_false_of_finite ha, isNaN_false_of_finite hb', isInf_false_of_finite ha,
    isInf_false_of_finite hb']

theorem value_fneg (x : F32) : value (fneg x) = -value x := by
  unfold value; rw [sgn_fneg, mag_fneg]; cases sgn x <;> simp

theorem fmul_of_finite {a b : F32} (ha : isFinite a = true) (hb : isFinite b = true) :
    fmul a b = withSign (sgn a != sgn b) (roundMag (units (mag a) * units (mag b)) (2 ^ 149)) := by
  simp [fmul, isNaN_false_of_finite ha, isNaN_false_of_finite hb, isInf_false_of_finite ha, isInf_false_of_finite hb]

theorem fdiv_of_finite {a b : F32} (ha : isFinite a = true) (hb : isFinite b = true) (h0 : isZero b = false) :
    fdiv a b = withSign (sgn a != sgn b) (roundMag (units (mag a) * 2 ^ 149) (units (mag b))) := by
  simp [fdiv, isNaN_false_of_finite ha, isNaN_false_of_finite hb, isInf_false_of_finite ha, isInf_false_of_finite hb, h0]

theorem value_mul_eq_zero {a b : F32} (h : value a * value b = 0) : units (mag a) * units (mag b) = 0 := by
  rcases mul_eq_zero.mp h with h | h <;> rw [value_eq_zero_iff] at h <;> simp [isZero] at h <;> simp [h, units_zero]

end Sys2Proof.Machine
end

