-- ==== Sys2Proof/Laws/Decode.lean ====
section
/-! SUPPORT. The fields of a command word, and the word from its fields. -/

namespace Sys2Proof

theorem toNat_fields (opc idx : BitVec 8) (rsvd : BitVec 16) :
    (opc ++ rsvd ++ idx).toNat = opc.toNat * 2 ^ 24 + rsvd.toNat * 2 ^ 8 + idx.toNat := by
  have h1 := opc.isLt
  have h2 := rsvd.isLt
  have h3 := idx.isLt
  rw [BitVec.toNat_append, BitVec.toNat_append, ← Nat.shiftLeft_add_eq_or_of_lt h2,
    ← Nat.shiftLeft_add_eq_or_of_lt h3, Nat.shiftLeft_eq, Nat.shiftLeft_eq]
  ring

theorem opcField_toNat (w : Word) : (opcField w).toNat = w.toNat / 2 ^ 24 := by
  have := w.isLt
  simp [opcField, Nat.shiftRight_eq_div_pow]; omega

theorem rsvdField_toNat (w : Word) : (rsvdField w).toNat = w.toNat / 2 ^ 8 % 2 ^ 16 := by
  simp [rsvdField, Nat.shiftRight_eq_div_pow]

theorem idxField_toNat (w : Word) : (idxField w).toNat = w.toNat % 2 ^ 8 := by
  simp [idxField]

@[simp] theorem opcField_append (opc idx : BitVec 8) (rsvd : BitVec 16) : opcField (opc ++ rsvd ++ idx) = opc := by
  apply BitVec.eq_of_toNat_eq
  rw [opcField_toNat, toNat_fields]
  have := idx.isLt; have := rsvd.isLt; omega

@[simp] theorem rsvdField_append (opc idx : BitVec 8) (rsvd : BitVec 16) : rsvdField (opc ++ rsvd ++ idx) = rsvd := by
  apply BitVec.eq_of_toNat_eq
  rw [rsvdField_toNat, toNat_fields]
  have := idx.isLt; have := rsvd.isLt; omega

@[simp] theorem idxField_append (opc idx : BitVec 8) (rsvd : BitVec 16) : idxField (opc ++ rsvd ++ idx) = idx := by
  apply BitVec.eq_of_toNat_eq
  rw [idxField_toNat, toNat_fields]
  have := idx.isLt; omega

/-- A word is its three fields. -/
theorem fields_append (w : Word) : opcField w ++ rsvdField w ++ idxField w = w := by
  apply BitVec.eq_of_toNat_eq
  rw [toNat_fields, opcField_toNat, rsvdField_toNat, idxField_toNat]
  omega

/-- Everything the decoder can answer with a command. -/
theorem decode_ok_cases {w : Word} {i : Instr} (h : decode w = .ok i) :
    rsvdField w = 0#16 ∧
    ((opcField w = 0x10#8 ∧ i = .setParam (idxField w)) ∨ (opcField w = 0x11#8 ∧ i = .getParam (idxField w)) ∨
      (idxField w = 0#8 ∧ plainOpcode (opcField w) = some i)) := by
  unfold decode at h
  split at h
  · cases h
  · rename_i hr
    refine ⟨by simpa using hr, ?_⟩
    split at h
    · cases h; exact .inl ⟨by assumption, rfl⟩
    · split at h
      · cases h; exact .inr (.inl ⟨by assumption, rfl⟩)
      · split at h
        · cases h
        · rename_i hx
          split at h
          · rename_i j hj; cases h; exact .inr (.inr ⟨by simpa using hx, hj⟩)
          · cases h

theorem plainOpcode_cases {opc : BitVec 8} {i : Instr} (h : plainOpcode opc = some i) :
    (opc = 0x00#8 ∧ i = .nop) ∨ (opc = 0x01#8 ∧ i = .init) ∨ (opc = 0x02#8 ∧ i = .setFs) ∨
      (opc = 0x03#8 ∧ i = .loadDefaults) ∨ (opc = 0x20#8 ∧ i = .frame) := by
  unfold plainOpcode at h
  repeat (split at h; · cases h; simp_all)
  cases h

end Sys2Proof
end

