-- ==== Sys2Proof/Laws/State.lean ====
section
/-! SUPPORT. Reading a field after writing one: one lemma per field per update of State. -/

namespace Sys2Proof.Machine

@[simp] theorem State.withOp0_op0 (s : State) (v : F32) : (s.withOp0 v).op0 = v := rfl
@[simp] theorem State.withOp0_op1 (s : State) (v : F32) : (s.withOp0 v).op1 = s.op1 := rfl
@[simp] theorem State.withOp0_res0 (s : State) (v : F32) : (s.withOp0 v).res0 = s.res0 := rfl
@[simp] theorem State.withOp0_res1 (s : State) (v : F32) : (s.withOp0 v).res1 = s.res1 := rfl
@[simp] theorem State.withOp0_badcmd (s : State) (v : F32) : (s.withOp0 v).badcmd = s.badcmd := rfl
@[simp] theorem State.withOp0_fs (s : State) (v : F32) : (s.withOp0 v).fs = s.fs := rfl
@[simp] theorem State.withOp0_params (s : State) (v : F32) : (s.withOp0 v).params = s.params := rfl
@[simp] theorem State.withOp0_sm (s : State) (v : F32) : (s.withOp0 v).sm = s.sm := rfl
@[simp] theorem State.withOp0_osc (s : State) (v : F32) : (s.withOp0 v).osc = s.osc := rfl
@[simp] theorem State.withOp0_fl (s : State) (v : F32) : (s.withOp0 v).fl = s.fl := rfl
@[simp] theorem State.withOp0_fr (s : State) (v : F32) : (s.withOp0 v).fr = s.fr := rfl
@[simp] theorem State.withOp0_pending (s : State) (v : F32) : (s.withOp0 v).pending = s.pending := rfl
@[simp] theorem State.withOp0_readLog (s : State) (v : F32) : (s.withOp0 v).readLog = s.readLog := rfl

@[simp] theorem State.withOp1_op0 (s : State) (v : F32) : (s.withOp1 v).op0 = s.op0 := rfl
@[simp] theorem State.withOp1_op1 (s : State) (v : F32) : (s.withOp1 v).op1 = v := rfl
@[simp] theorem State.withOp1_res0 (s : State) (v : F32) : (s.withOp1 v).res0 = s.res0 := rfl
@[simp] theorem State.withOp1_res1 (s : State) (v : F32) : (s.withOp1 v).res1 = s.res1 := rfl
@[simp] theorem State.withOp1_badcmd (s : State) (v : F32) : (s.withOp1 v).badcmd = s.badcmd := rfl
@[simp] theorem State.withOp1_fs (s : State) (v : F32) : (s.withOp1 v).fs = s.fs := rfl
@[simp] theorem State.withOp1_params (s : State) (v : F32) : (s.withOp1 v).params = s.params := rfl
@[simp] theorem State.withOp1_sm (s : State) (v : F32) : (s.withOp1 v).sm = s.sm := rfl
@[simp] theorem State.withOp1_osc (s : State) (v : F32) : (s.withOp1 v).osc = s.osc := rfl
@[simp] theorem State.withOp1_fl (s : State) (v : F32) : (s.withOp1 v).fl = s.fl := rfl
@[simp] theorem State.withOp1_fr (s : State) (v : F32) : (s.withOp1 v).fr = s.fr := rfl
@[simp] theorem State.withOp1_pending (s : State) (v : F32) : (s.withOp1 v).pending = s.pending := rfl
@[simp] theorem State.withOp1_readLog (s : State) (v : F32) : (s.withOp1 v).readLog = s.readLog := rfl

@[simp] theorem State.withRes0_op0 (s : State) (v : F32) : (s.withRes0 v).op0 = s.op0 := rfl
@[simp] theorem State.withRes0_op1 (s : State) (v : F32) : (s.withRes0 v).op1 = s.op1 := rfl
@[simp] theorem State.withRes0_res0 (s : State) (v : F32) : (s.withRes0 v).res0 = v := rfl
@[simp] theorem State.withRes0_res1 (s : State) (v : F32) : (s.withRes0 v).res1 = s.res1 := rfl
@[simp] theorem State.withRes0_badcmd (s : State) (v : F32) : (s.withRes0 v).badcmd = s.badcmd := rfl
@[simp] theorem State.withRes0_fs (s : State) (v : F32) : (s.withRes0 v).fs = s.fs := rfl
@[simp] theorem State.withRes0_params (s : State) (v : F32) : (s.withRes0 v).params = s.params := rfl
@[simp] theorem State.withRes0_sm (s : State) (v : F32) : (s.withRes0 v).sm = s.sm := rfl
@[simp] theorem State.withRes0_osc (s : State) (v : F32) : (s.withRes0 v).osc = s.osc := rfl
@[simp] theorem State.withRes0_fl (s : State) (v : F32) : (s.withRes0 v).fl = s.fl := rfl
@[simp] theorem State.withRes0_fr (s : State) (v : F32) : (s.withRes0 v).fr = s.fr := rfl
@[simp] theorem State.withRes0_pending (s : State) (v : F32) : (s.withRes0 v).pending = s.pending := rfl
@[simp] theorem State.withRes0_readLog (s : State) (v : F32) : (s.withRes0 v).readLog = s.readLog := rfl

@[simp] theorem State.withRes1_op0 (s : State) (v : F32) : (s.withRes1 v).op0 = s.op0 := rfl
@[simp] theorem State.withRes1_op1 (s : State) (v : F32) : (s.withRes1 v).op1 = s.op1 := rfl
@[simp] theorem State.withRes1_res0 (s : State) (v : F32) : (s.withRes1 v).res0 = s.res0 := rfl
@[simp] theorem State.withRes1_res1 (s : State) (v : F32) : (s.withRes1 v).res1 = v := rfl
@[simp] theorem State.withRes1_badcmd (s : State) (v : F32) : (s.withRes1 v).badcmd = s.badcmd := rfl
@[simp] theorem State.withRes1_fs (s : State) (v : F32) : (s.withRes1 v).fs = s.fs := rfl
@[simp] theorem State.withRes1_params (s : State) (v : F32) : (s.withRes1 v).params = s.params := rfl
@[simp] theorem State.withRes1_sm (s : State) (v : F32) : (s.withRes1 v).sm = s.sm := rfl
@[simp] theorem State.withRes1_osc (s : State) (v : F32) : (s.withRes1 v).osc = s.osc := rfl
@[simp] theorem State.withRes1_fl (s : State) (v : F32) : (s.withRes1 v).fl = s.fl := rfl
@[simp] theorem State.withRes1_fr (s : State) (v : F32) : (s.withRes1 v).fr = s.fr := rfl
@[simp] theorem State.withRes1_pending (s : State) (v : F32) : (s.withRes1 v).pending = s.pending := rfl
@[simp] theorem State.withRes1_readLog (s : State) (v : F32) : (s.withRes1 v).readLog = s.readLog := rfl

@[simp] theorem State.withBadcmd_op0 (s : State) (v : Bool) : (s.withBadcmd v).op0 = s.op0 := rfl
@[simp] theorem State.withBadcmd_op1 (s : State) (v : Bool) : (s.withBadcmd v).op1 = s.op1 := rfl
@[simp] theorem State.withBadcmd_res0 (s : State) (v : Bool) : (s.withBadcmd v).res0 = s.res0 := rfl
@[simp] theorem State.withBadcmd_res1 (s : State) (v : Bool) : (s.withBadcmd v).res1 = s.res1 := rfl
@[simp] theorem State.withBadcmd_badcmd (s : State) (v : Bool) : (s.withBadcmd v).badcmd = v := rfl
@[simp] theorem State.withBadcmd_fs (s : State) (v : Bool) : (s.withBadcmd v).fs = s.fs := rfl
@[simp] theorem State.withBadcmd_params (s : State) (v : Bool) : (s.withBadcmd v).params = s.params := rfl
@[simp] theorem State.withBadcmd_sm (s : State) (v : Bool) : (s.withBadcmd v).sm = s.sm := rfl
@[simp] theorem State.withBadcmd_osc (s : State) (v : Bool) : (s.withBadcmd v).osc = s.osc := rfl
@[simp] theorem State.withBadcmd_fl (s : State) (v : Bool) : (s.withBadcmd v).fl = s.fl := rfl
@[simp] theorem State.withBadcmd_fr (s : State) (v : Bool) : (s.withBadcmd v).fr = s.fr := rfl
@[simp] theorem State.withBadcmd_pending (s : State) (v : Bool) : (s.withBadcmd v).pending = s.pending := rfl
@[simp] theorem State.withBadcmd_readLog (s : State) (v : Bool) : (s.withBadcmd v).readLog = s.readLog := rfl

@[simp] theorem State.withFs_op0 (s : State) (v : F32) : (s.withFs v).op0 = s.op0 := rfl
@[simp] theorem State.withFs_op1 (s : State) (v : F32) : (s.withFs v).op1 = s.op1 := rfl
@[simp] theorem State.withFs_res0 (s : State) (v : F32) : (s.withFs v).res0 = s.res0 := rfl
@[simp] theorem State.withFs_res1 (s : State) (v : F32) : (s.withFs v).res1 = s.res1 := rfl
@[simp] theorem State.withFs_badcmd (s : State) (v : F32) : (s.withFs v).badcmd = s.badcmd := rfl
@[simp] theorem State.withFs_fs (s : State) (v : F32) : (s.withFs v).fs = v := rfl
@[simp] theorem State.withFs_params (s : State) (v : F32) : (s.withFs v).params = s.params := rfl
@[simp] theorem State.withFs_sm (s : State) (v : F32) : (s.withFs v).sm = s.sm := rfl
@[simp] theorem State.withFs_osc (s : State) (v : F32) : (s.withFs v).osc = s.osc := rfl
@[simp] theorem State.withFs_fl (s : State) (v : F32) : (s.withFs v).fl = s.fl := rfl
@[simp] theorem State.withFs_fr (s : State) (v : F32) : (s.withFs v).fr = s.fr := rfl
@[simp] theorem State.withFs_pending (s : State) (v : F32) : (s.withFs v).pending = s.pending := rfl
@[simp] theorem State.withFs_readLog (s : State) (v : F32) : (s.withFs v).readLog = s.readLog := rfl

@[simp] theorem State.withParams_op0 (s : State) (v : ParamFile) : (s.withParams v).op0 = s.op0 := rfl
@[simp] theorem State.withParams_op1 (s : State) (v : ParamFile) : (s.withParams v).op1 = s.op1 := rfl
@[simp] theorem State.withParams_res0 (s : State) (v : ParamFile) : (s.withParams v).res0 = s.res0 := rfl
@[simp] theorem State.withParams_res1 (s : State) (v : ParamFile) : (s.withParams v).res1 = s.res1 := rfl
@[simp] theorem State.withParams_badcmd (s : State) (v : ParamFile) : (s.withParams v).badcmd = s.badcmd := rfl
@[simp] theorem State.withParams_fs (s : State) (v : ParamFile) : (s.withParams v).fs = s.fs := rfl
@[simp] theorem State.withParams_params (s : State) (v : ParamFile) : (s.withParams v).params = v := rfl
@[simp] theorem State.withParams_sm (s : State) (v : ParamFile) : (s.withParams v).sm = s.sm := rfl
@[simp] theorem State.withParams_osc (s : State) (v : ParamFile) : (s.withParams v).osc = s.osc := rfl
@[simp] theorem State.withParams_fl (s : State) (v : ParamFile) : (s.withParams v).fl = s.fl := rfl
@[simp] theorem State.withParams_fr (s : State) (v : ParamFile) : (s.withParams v).fr = s.fr := rfl
@[simp] theorem State.withParams_pending (s : State) (v : ParamFile) : (s.withParams v).pending = s.pending := rfl
@[simp] theorem State.withParams_readLog (s : State) (v : ParamFile) : (s.withParams v).readLog = s.readLog := rfl

@[simp] theorem State.withSm_op0 (s : State) (v : Smoother) : (s.withSm v).op0 = s.op0 := rfl
@[simp] theorem State.withSm_op1 (s : State) (v : Smoother) : (s.withSm v).op1 = s.op1 := rfl
@[simp] theorem State.withSm_res0 (s : State) (v : Smoother) : (s.withSm v).res0 = s.res0 := rfl
@[simp] theorem State.withSm_res1 (s : State) (v : Smoother) : (s.withSm v).res1 = s.res1 := rfl
@[simp] theorem State.withSm_badcmd (s : State) (v : Smoother) : (s.withSm v).badcmd = s.badcmd := rfl
@[simp] theorem State.withSm_fs (s : State) (v : Smoother) : (s.withSm v).fs = s.fs := rfl
@[simp] theorem State.withSm_params (s : State) (v : Smoother) : (s.withSm v).params = s.params := rfl
@[simp] theorem State.withSm_sm (s : State) (v : Smoother) : (s.withSm v).sm = v := rfl
@[simp] theorem State.withSm_osc (s : State) (v : Smoother) : (s.withSm v).osc = s.osc := rfl
@[simp] theorem State.withSm_fl (s : State) (v : Smoother) : (s.withSm v).fl = s.fl := rfl
@[simp] theorem State.withSm_fr (s : State) (v : Smoother) : (s.withSm v).fr = s.fr := rfl
@[simp] theorem State.withSm_pending (s : State) (v : Smoother) : (s.withSm v).pending = s.pending := rfl
@[simp] theorem State.withSm_readLog (s : State) (v : Smoother) : (s.withSm v).readLog = s.readLog := rfl

@[simp] theorem State.withOsc_op0 (s : State) (v : Oscillator) : (s.withOsc v).op0 = s.op0 := rfl
@[simp] theorem State.withOsc_op1 (s : State) (v : Oscillator) : (s.withOsc v).op1 = s.op1 := rfl
@[simp] theorem State.withOsc_res0 (s : State) (v : Oscillator) : (s.withOsc v).res0 = s.res0 := rfl
@[simp] theorem State.withOsc_res1 (s : State) (v : Oscillator) : (s.withOsc v).res1 = s.res1 := rfl
@[simp] theorem State.withOsc_badcmd (s : State) (v : Oscillator) : (s.withOsc v).badcmd = s.badcmd := rfl
@[simp] theorem State.withOsc_fs (s : State) (v : Oscillator) : (s.withOsc v).fs = s.fs := rfl
@[simp] theorem State.withOsc_params (s : State) (v : Oscillator) : (s.withOsc v).params = s.params := rfl
@[simp] theorem State.withOsc_sm (s : State) (v : Oscillator) : (s.withOsc v).sm = s.sm := rfl
@[simp] theorem State.withOsc_osc (s : State) (v : Oscillator) : (s.withOsc v).osc = v := rfl
@[simp] theorem State.withOsc_fl (s : State) (v : Oscillator) : (s.withOsc v).fl = s.fl := rfl
@[simp] theorem State.withOsc_fr (s : State) (v : Oscillator) : (s.withOsc v).fr = s.fr := rfl
@[simp] theorem State.withOsc_pending (s : State) (v : Oscillator) : (s.withOsc v).pending = s.pending := rfl
@[simp] theorem State.withOsc_readLog (s : State) (v : Oscillator) : (s.withOsc v).readLog = s.readLog := rfl

@[simp] theorem State.withFl_op0 (s : State) (v : Filter) : (s.withFl v).op0 = s.op0 := rfl
@[simp] theorem State.withFl_op1 (s : State) (v : Filter) : (s.withFl v).op1 = s.op1 := rfl
@[simp] theorem State.withFl_res0 (s : State) (v : Filter) : (s.withFl v).res0 = s.res0 := rfl
@[simp] theorem State.withFl_res1 (s : State) (v : Filter) : (s.withFl v).res1 = s.res1 := rfl
@[simp] theorem State.withFl_badcmd (s : State) (v : Filter) : (s.withFl v).badcmd = s.badcmd := rfl
@[simp] theorem State.withFl_fs (s : State) (v : Filter) : (s.withFl v).fs = s.fs := rfl
@[simp] theorem State.withFl_params (s : State) (v : Filter) : (s.withFl v).params = s.params := rfl
@[simp] theorem State.withFl_sm (s : State) (v : Filter) : (s.withFl v).sm = s.sm := rfl
@[simp] theorem State.withFl_osc (s : State) (v : Filter) : (s.withFl v).osc = s.osc := rfl
@[simp] theorem State.withFl_fl (s : State) (v : Filter) : (s.withFl v).fl = v := rfl
@[simp] theorem State.withFl_fr (s : State) (v : Filter) : (s.withFl v).fr = s.fr := rfl
@[simp] theorem State.withFl_pending (s : State) (v : Filter) : (s.withFl v).pending = s.pending := rfl
@[simp] theorem State.withFl_readLog (s : State) (v : Filter) : (s.withFl v).readLog = s.readLog := rfl

@[simp] theorem State.withFr_op0 (s : State) (v : Filter) : (s.withFr v).op0 = s.op0 := rfl
@[simp] theorem State.withFr_op1 (s : State) (v : Filter) : (s.withFr v).op1 = s.op1 := rfl
@[simp] theorem State.withFr_res0 (s : State) (v : Filter) : (s.withFr v).res0 = s.res0 := rfl
@[simp] theorem State.withFr_res1 (s : State) (v : Filter) : (s.withFr v).res1 = s.res1 := rfl
@[simp] theorem State.withFr_badcmd (s : State) (v : Filter) : (s.withFr v).badcmd = s.badcmd := rfl
@[simp] theorem State.withFr_fs (s : State) (v : Filter) : (s.withFr v).fs = s.fs := rfl
@[simp] theorem State.withFr_params (s : State) (v : Filter) : (s.withFr v).params = s.params := rfl
@[simp] theorem State.withFr_sm (s : State) (v : Filter) : (s.withFr v).sm = s.sm := rfl
@[simp] theorem State.withFr_osc (s : State) (v : Filter) : (s.withFr v).osc = s.osc := rfl
@[simp] theorem State.withFr_fl (s : State) (v : Filter) : (s.withFr v).fl = s.fl := rfl
@[simp] theorem State.withFr_fr (s : State) (v : Filter) : (s.withFr v).fr = v := rfl
@[simp] theorem State.withFr_pending (s : State) (v : Filter) : (s.withFr v).pending = s.pending := rfl
@[simp] theorem State.withFr_readLog (s : State) (v : Filter) : (s.withFr v).readLog = s.readLog := rfl

@[simp] theorem State.withPending_op0 (s : State) (v : List HostEvent) : (s.withPending v).op0 = s.op0 := rfl
@[simp] theorem State.withPending_op1 (s : State) (v : List HostEvent) : (s.withPending v).op1 = s.op1 := rfl
@[simp] theorem State.withPending_res0 (s : State) (v : List HostEvent) : (s.withPending v).res0 = s.res0 := rfl
@[simp] theorem State.withPending_res1 (s : State) (v : List HostEvent) : (s.withPending v).res1 = s.res1 := rfl
@[simp] theorem State.withPending_badcmd (s : State) (v : List HostEvent) : (s.withPending v).badcmd = s.badcmd := rfl
@[simp] theorem State.withPending_fs (s : State) (v : List HostEvent) : (s.withPending v).fs = s.fs := rfl
@[simp] theorem State.withPending_params (s : State) (v : List HostEvent) : (s.withPending v).params = s.params := rfl
@[simp] theorem State.withPending_sm (s : State) (v : List HostEvent) : (s.withPending v).sm = s.sm := rfl
@[simp] theorem State.withPending_osc (s : State) (v : List HostEvent) : (s.withPending v).osc = s.osc := rfl
@[simp] theorem State.withPending_fl (s : State) (v : List HostEvent) : (s.withPending v).fl = s.fl := rfl
@[simp] theorem State.withPending_fr (s : State) (v : List HostEvent) : (s.withPending v).fr = s.fr := rfl
@[simp] theorem State.withPending_pending (s : State) (v : List HostEvent) : (s.withPending v).pending = v := rfl
@[simp] theorem State.withPending_readLog (s : State) (v : List HostEvent) : (s.withPending v).readLog = s.readLog := rfl

@[simp] theorem State.withReadLog_op0 (s : State) (v : List Word) : (s.withReadLog v).op0 = s.op0 := rfl
@[simp] theorem State.withReadLog_op1 (s : State) (v : List Word) : (s.withReadLog v).op1 = s.op1 := rfl
@[simp] theorem State.withReadLog_res0 (s : State) (v : List Word) : (s.withReadLog v).res0 = s.res0 := rfl
@[simp] theorem State.withReadLog_res1 (s : State) (v : List Word) : (s.withReadLog v).res1 = s.res1 := rfl
@[simp] theorem State.withReadLog_badcmd (s : State) (v : List Word) : (s.withReadLog v).badcmd = s.badcmd := rfl
@[simp] theorem State.withReadLog_fs (s : State) (v : List Word) : (s.withReadLog v).fs = s.fs := rfl
@[simp] theorem State.withReadLog_params (s : State) (v : List Word) : (s.withReadLog v).params = s.params := rfl
@[simp] theorem State.withReadLog_sm (s : State) (v : List Word) : (s.withReadLog v).sm = s.sm := rfl
@[simp] theorem State.withReadLog_osc (s : State) (v : List Word) : (s.withReadLog v).osc = s.osc := rfl
@[simp] theorem State.withReadLog_fl (s : State) (v : List Word) : (s.withReadLog v).fl = s.fl := rfl
@[simp] theorem State.withReadLog_fr (s : State) (v : List Word) : (s.withReadLog v).fr = s.fr := rfl
@[simp] theorem State.withReadLog_pending (s : State) (v : List Word) : (s.withReadLog v).pending = s.pending := rfl
@[simp] theorem State.withReadLog_readLog (s : State) (v : List Word) : (s.withReadLog v).readLog = v := rfl

end Sys2Proof.Machine
end

