-- ==== Sys2Proof/Laws/Ops.lean ====
section
/-! SUPPORT. What each shared operation does, said once: what a setter, the default program, the construction and the
two halves of FRAME write, and what they leave alone. -/

namespace Sys2Proof.Machine

/-! ### The sub-blocks -/

theorem isNaN_clamp {v lo hi : F32} (hv : isNaN v = false) (h : fle lo hi = true) : isNaN (clamp v lo hi) = false :=
  (fle_iff.mp (clamp_bounds hv h).1).2.1

/-- Clamping twice is clamping once, bit for bit. -/
theorem clamp_clamp {v lo hi : F32} (hv : isNaN v = false) (h : fle lo hi = true) :
    clamp (clamp v lo hi) lo hi = clamp v lo hi :=
  clamp_of_bounds (clamp_bounds hv h).1 (clamp_bounds hv h).2

theorem fltSetCutoff_clamp {v : F32} (f : Filter) (hv : isNaN v = false) :
    fltSetCutoff (clamp v Config.cutMin Config.cutMax) f =
      { f with cut := clamp v Config.cutMin Config.cutMax
               coef := fltCoef (clamp v Config.cutMin Config.cutMax) f.res f.fs } := by
  have hle : fle Config.cutMin Config.cutMax = true := by decide
  rw [fltSetCutoff, isNaN_clamp hv hle, clamp_clamp hv hle]
  rfl

theorem fltSetRes_clamp {v : F32} (f : Filter) (hv : isNaN v = false) :
    fltSetRes (clamp v Config.resMin Config.resMax) f =
      { f with res := clamp v Config.resMin Config.resMax
               coef := fltCoef f.cut (clamp v Config.resMin Config.resMax) f.fs } := by
  have hle : fle Config.resMin Config.resMax = true := by decide
  rw [fltSetRes, isNaN_clamp hv hle, clamp_clamp hv hle]
  rfl

theorem oscSetWave_clamp {v : F32} (o : Oscillator) (hv : isNaN v = false) :
    oscSetWave (clamp v Config.waveMin Config.waveMax) o =
      { o with wave := waveOf (clamp v Config.waveMin Config.waveMax) } := by
  have hle : fle Config.waveMin Config.waveMax = true := by decide
  rw [oscSetWave, isNaN_clamp hv hle, clamp_clamp hv hle]
  rfl

theorem oscSetRate_clamp {v : F32} (o : Oscillator) (hv : isNaN v = false) :
    oscSetRate (clamp v Config.rateMin Config.rateMax) o =
      { o with rate := clamp v Config.rateMin Config.rateMax
               inc := oscInc (clamp v Config.rateMin Config.rateMax) o.fs } := by
  have hle : fle Config.rateMin Config.rateMax = true := by decide
  rw [oscSetRate, isNaN_clamp hv hle, clamp_clamp hv hle]
  rfl

/-- A filter setter writes cutoff, resonance and coefficients, never the rate or the history. -/
theorem fltSetCutoff_keeps (v : F32) (f : Filter) :
    (fltSetCutoff v f).fs = f.fs ∧ (fltSetCutoff v f).res = f.res ∧ (fltSetCutoff v f).x1 = f.x1 ∧
      (fltSetCutoff v f).x2 = f.x2 ∧ (fltSetCutoff v f).y1 = f.y1 ∧ (fltSetCutoff v f).y2 = f.y2 := by
  unfold fltSetCutoff; split <;> simp

theorem fltSetRes_keeps (v : F32) (f : Filter) :
    (fltSetRes v f).fs = f.fs ∧ (fltSetRes v f).cut = f.cut ∧ (fltSetRes v f).x1 = f.x1 ∧
      (fltSetRes v f).x2 = f.x2 ∧ (fltSetRes v f).y1 = f.y1 ∧ (fltSetRes v f).y2 = f.y2 := by
  unfold fltSetRes; split <;> simp

/-- The oscillator's setters keep its phase and its sample rate. -/
theorem oscSetRate_keeps (v : F32) (o : Oscillator) :
    (oscSetRate v o).phase = o.phase ∧ (oscSetRate v o).fs = o.fs ∧ (oscSetRate v o).wave = o.wave := by
  unfold oscSetRate; split <;> simp

theorem oscSetWave_keeps (v : F32) (o : Oscillator) :
    (oscSetWave v o).phase = o.phase ∧ (oscSetWave v o).fs = o.fs ∧ (oscSetWave v o).rate = o.rate ∧
      (oscSetWave v o).inc = o.inc := by
  unfold oscSetWave; split <;> simp

/-! ### SET_PARAM -/

/-- Everything SET_PARAM can do. -/
theorem setParam_cases (i : Nat) (v : F32) (s : State) :
    ((Config.numParams ≤ i ∨ isNaN v = true) ∧ setParam i v s = s) ∨
    (isNaN v = false ∧
      ((i = 0 ∧ setParam i v s = setCutoff v s) ∨ (i = 1 ∧ setParam i v s = setResonance v s) ∨
       (i = 2 ∧ setParam i v s = setWaveform v s) ∨ (i = 3 ∧ setParam i v s = setLfoRate v s) ∨
       (i = 4 ∧ setParam i v s = setModDepth v s))) := by
  unfold setParam
  split
  · rename_i h; exact .inl ⟨.inl h, rfl⟩
  · rename_i h
    split
    · rename_i h2; exact .inl ⟨.inr h2, rfl⟩
    · rename_i h2
      have h2 : isNaN v = false := by simpa using h2
      refine .inr ⟨h2, ?_⟩
      unfold Config.numParams at h
      have hi : i = 0 ∨ i = 1 ∨ i = 2 ∨ i = 3 ∨ i = 4 := by omega
      rcases hi with rfl | rfl | rfl | rfl | rfl <;> simp

/-- The registers no SET_PARAM writes. -/
structure SameOutsideParams (s t : State) : Prop where
  op0 : t.op0 = s.op0
  op1 : t.op1 = s.op1
  res0 : t.res0 = s.res0
  res1 : t.res1 = s.res1
  badcmd : t.badcmd = s.badcmd
  fs : t.fs = s.fs
  sm : t.sm = s.sm
  phase : t.osc.phase = s.osc.phase
  flHistory : t.fl.x1 = s.fl.x1 ∧ t.fl.x2 = s.fl.x2 ∧ t.fl.y1 = s.fl.y1 ∧ t.fl.y2 = s.fl.y2
  frHistory : t.fr.x1 = s.fr.x1 ∧ t.fr.x2 = s.fr.x2 ∧ t.fr.y1 = s.fr.y1 ∧ t.fr.y2 = s.fr.y2
  pending : t.pending = s.pending
  readLog : t.readLog = s.readLog

theorem SameOutsideParams.refl (s : State) : SameOutsideParams s s := by constructor <;> simp

theorem SameOutsideParams.trans {s t u : State} (h : SameOutsideParams s t) (g : SameOutsideParams t u) :
    SameOutsideParams s u := by
  constructor
  · rw [g.op0, h.op0]
  · rw [g.op1, h.op1]
  · rw [g.res0, h.res0]
  · rw [g.res1, h.res1]
  · rw [g.badcmd, h.badcmd]
  · rw [g.fs, h.fs]
  · rw [g.sm, h.sm]
  · rw [g.phase, h.phase]
  · rw [g.flHistory.1, g.flHistory.2.1, g.flHistory.2.2.1, g.flHistory.2.2.2]; exact h.flHistory
  · rw [g.frHistory.1, g.frHistory.2.1, g.frHistory.2.2.1, g.frHistory.2.2.2]; exact h.frHistory
  · rw [g.pending, h.pending]
  · rw [g.readLog, h.readLog]

theorem setParam_frame (i : Nat) (v : F32) (s : State) : SameOutsideParams s (setParam i v s) := by
  rcases setParam_cases i v s with ⟨_, h⟩ | ⟨_, ⟨_, h⟩ | ⟨_, h⟩ | ⟨_, h⟩ | ⟨_, h⟩ | ⟨_, h⟩⟩ <;> rw [h]
  · exact .refl s
  · have h1 := fltSetCutoff_keeps (clamp v Config.cutMin Config.cutMax)
    constructor <;> simp [setCutoff, h1]
  · have h1 := fltSetRes_keeps (clamp v Config.resMin Config.resMax)
    constructor <;> simp [setResonance, h1]
  · have h1 := oscSetWave_keeps (clamp v Config.waveMin Config.waveMax)
    constructor <;> simp [setWaveform, h1]
  · have h1 := oscSetRate_keeps (clamp v Config.rateMin Config.rateMax)
    constructor <;> simp [setLfoRate, h1]
  · constructor <;> simp [setModDepth]

theorem loadDefaults_frame (s : State) : SameOutsideParams s (loadDefaults s) := by
  unfold loadDefaults
  exact ((((setParam_frame 0 _ s).trans (setParam_frame 1 _ _)).trans (setParam_frame 2 _ _)).trans
    (setParam_frame 3 _ _)).trans (setParam_frame 4 _ _)

theorem isNaN_cutDefault : isNaN Config.cutDefault = false := by decide
theorem isNaN_resDefault : isNaN Config.resDefault = false := by decide
theorem isNaN_waveDefault : isNaN Config.waveDefault = false := by decide
theorem isNaN_rateDefault : isNaN Config.rateDefault = false := by decide
theorem isNaN_depthDefault : isNaN Config.depthDefault = false := by decide
theorem clamp_cutDefault : clamp Config.cutDefault Config.cutMin Config.cutMax = Config.cutDefault := by decide
theorem clamp_resDefault : clamp Config.resDefault Config.resMin Config.resMax = Config.resDefault := by decide
theorem clamp_waveDefault : clamp Config.waveDefault Config.waveMin Config.waveMax = Config.waveDefault := by decide
theorem clamp_rateDefault : clamp Config.rateDefault Config.rateMin Config.rateMax = Config.rateDefault := by decide
theorem clamp_depthDefault : clamp Config.depthDefault Config.depthMin Config.depthMax = Config.depthDefault := by
  decide
theorem waveOf_waveDefault : waveOf Config.waveDefault = .triangle := by decide

/-- What the five setters do in index order with values that are no NaN and in range, as LOAD_DEFAULTS calls them. -/
theorem setParam_all (c r w h d : F32) (s : State) (nc : isNaN c = false) (nr : isNaN r = false)
    (nw : isNaN w = false) (nh : isNaN h = false) (nd : isNaN d = false)
    (kc : clamp c Config.cutMin Config.cutMax = c) (kr : clamp r Config.resMin Config.resMax = r)
    (kw : clamp w Config.waveMin Config.waveMax = w) (kh : clamp h Config.rateMin Config.rateMax = h)
    (kd : clamp d Config.depthMin Config.depthMax = d) :
    setParam 4 d (setParam 3 h (setParam 2 w (setParam 1 r (setParam 0 c s)))) =
      { s with
        params := ⟨c, r, w, h, d⟩
        osc := { s.osc with wave := waveOf w, rate := h, inc := oscInc h s.osc.fs }
        fl := { s.fl with cut := c, res := r, coef := fltCoef c r s.fl.fs }
        fr := { s.fr with cut := c, res := r, coef := fltCoef c r s.fr.fs } } := by
  simp [setParam, Config.numParams, setCutoff, setResonance, setWaveform, setLfoRate, setModDepth, nc, nr, nw, nh, nd,
    kc, kr, kw, kh, kd, fltSetCutoff, fltSetRes, oscSetWave, oscSetRate, State.withParams, State.withFl, State.withFr,
    State.withOsc]

/-! ### The two halves of FRAME -/

/-- The registers FRAME's control part (steps a to c) does not write. -/
theorem frameControl_frame (s : State) :
    (frameControl s).op0 = s.op0 ∧ (frameControl s).op1 = s.op1 ∧ (frameControl s).res0 = s.res0 ∧
    (frameControl s).res1 = s.res1 ∧ (frameControl s).badcmd = s.badcmd ∧ (frameControl s).fs = s.fs ∧
    (frameControl s).params = s.params ∧ (frameControl s).osc = oscTick s.osc ∧
    (frameControl s).pending = s.pending ∧ (frameControl s).readLog = s.readLog := by
  unfold frameControl modulate; split <;> simp

/-- What the control part does to each filter: nothing, or a cutoff pushed to both. -/
theorem frameControl_filters (s : State) :
    (fne s.params.lfoModDepth f0 = false ∧ (frameControl s).sm = s.sm ∧ (frameControl s).fl = s.fl ∧
      (frameControl s).fr = s.fr) ∨
    (fne s.params.lfoModDepth f0 = true ∧ (frameControl s).sm = smProcess s.params.cutoff s.sm ∧
      ∃ m, m = modCutoff (oscTickValue s.osc) s ∧ (frameControl s).fl = fltSetCutoff m s.fl ∧
        (frameControl s).fr = fltSetCutoff m s.fr) := by
  unfold frameControl
  split
  · rename_i h; exact .inr ⟨h, rfl, _, rfl, rfl, rfl⟩
  · rename_i h; exact .inl ⟨by simpa using h, rfl, rfl, rfl⟩

/-- What the filter part (step d) writes: the two histories and the two results. -/
theorem frameFilter_frame (s : State) :
    (frameFilter s).op0 = s.op0 ∧ (frameFilter s).op1 = s.op1 ∧ (frameFilter s).res0 = fltOutput s.fl s.op0 ∧
    (frameFilter s).res1 = fltOutput s.fr s.op1 ∧ (frameFilter s).badcmd = s.badcmd ∧ (frameFilter s).fs = s.fs ∧
    (frameFilter s).params = s.params ∧ (frameFilter s).sm = s.sm ∧ (frameFilter s).osc = s.osc ∧
    (frameFilter s).fl = fltProcess s.fl s.op0 ∧ (frameFilter s).fr = fltProcess s.fr s.op1 ∧
    (frameFilter s).pending = s.pending ∧ (frameFilter s).readLog = s.readLog := by
  simp [frameFilter]

/-! ### SET_FS -/

/-- What the propagation of a sample rate writes, and that it keeps everything else. -/
theorem propagateFs_frame (fs : F32) (s : State) :
    (propagateFs fs s).op0 = s.op0 ∧ (propagateFs fs s).op1 = s.op1 ∧ (propagateFs fs s).res0 = s.res0 ∧
    (propagateFs fs s).res1 = s.res1 ∧ (propagateFs fs s).badcmd = s.badcmd ∧ (propagateFs fs s).fs = fs ∧
    (propagateFs fs s).params = s.params ∧ (propagateFs fs s).sm = smSetFs fs s.sm ∧
    (propagateFs fs s).osc = oscSetRate s.params.lfoFrequency (oscSetFs fs s.osc) ∧
    (propagateFs fs s).fl = fltSetFs fs s.fl ∧ (propagateFs fs s).fr = fltSetFs fs s.fr ∧
    (propagateFs fs s).pending = s.pending ∧ (propagateFs fs s).readLog = s.readLog := by
  simp [propagateFs]

/-! ### The register window -/

theorem statusWrite_cases (w : Word) (s : State) :
    (w.getLsbD 0 = true ∧ statusWrite w s = s.withBadcmd false) ∨ (w.getLsbD 0 = false ∧ statusWrite w s = s) := by
  unfold statusWrite; cases w.getLsbD 0 <;> simp

/-- Everything a write of a register other than CMD can do. -/
theorem memWrite_cases (off : Offset) (w : Word) (s : State) :
    memWrite off w s = s ∨ memWrite off w s = s.withOp0 w ∨ memWrite off w s = s.withOp1 w ∨
      (w.getLsbD 0 = true ∧ memWrite off w s = s.withBadcmd false) := by
  unfold memWrite
  split
  · exact .inr (.inl rfl)
  · exact .inr (.inr (.inl rfl))
  · rcases statusWrite_cases w s with ⟨h, e⟩ | ⟨_, e⟩
    · exact .inr (.inr (.inr ⟨h, e⟩))
    · exact .inl e
  · exact .inl rfl

end Sys2Proof.Machine
end

