-- ==== Sys2Proof/Laws/PerInstr.lean ====
section
/-! SUPPORT. Statements about every command, one lemma per constructor. -/

namespace Sys2Proof.Laws.EncodedWordIsInTheTable

/-- The row of the opcode table with the command's mnemonic selects the word the encoder writes for it
(30_encoding.md R56). -/
def Statement (i : Instr) : Prop :=
  ∃ r ∈ opcodeTable, r.mnemonic = i.mnemonic ∧ r.selects (encode i) = true

theorem nop : Statement .nop := by unfold Statement; decide
theorem init : Statement .init := by unfold Statement; decide
theorem setFs : Statement .setFs := by unfold Statement; decide
theorem loadDefaults : Statement .loadDefaults := by unfold Statement; decide
theorem frame : Statement .frame := by unfold Statement; decide

theorem setParam (idx : BitVec 8) : Statement (.setParam idx) := by
  unfold Statement; revert idx; decide

theorem getParam (idx : BitVec 8) : Statement (.getParam idx) := by
  unfold Statement; revert idx; decide

end Sys2Proof.Laws.EncodedWordIsInTheTable
end

