-- ==== Sys2Proof/Laws/Port.lean ====
section
/-! SUPPORT. What a command and a step can do, said once. -/

namespace Sys2Proof.Machine

@[simp] theorem exec_nop (s : State) : exec .nop s = .next s := rfl
@[simp] theorem exec_init (s : State) : exec .init s = .next (loadDefaults (construct (coerceFs s.op0) s)) := rfl
@[simp] theorem exec_setFs (s : State) :
    exec .setFs s = .next (if feq (coerceFs s.op0) s.fs then s else propagateFs (coerceFs s.op0) s) := rfl
@[simp] theorem exec_loadDefaults (s : State) : exec .loadDefaults s = .next (loadDefaults s) := rfl
@[simp] theorem exec_setParam (idx : BitVec 8) (s : State) :
    exec (.setParam idx) s = .next (setParam idx.toNat s.op0 s) := rfl
@[simp] theorem exec_getParam (idx : BitVec 8) (s : State) :
    exec (.getParam idx) s = .next (s.withRes0 (getParam idx.toNat s)) := rfl
@[simp] theorem exec_frame (s : State) : exec .frame s = .next (frameFilter (frameControl s)) := rfl

/-- Every command answers a next state (60_exceptions.md R110). -/
theorem exec_next (i : Instr) (s : State) : ∃ t, exec i s = .next t := by cases i <;> exact ⟨_, rfl⟩

theorem step_idle {s : State} (h : s.pending = []) : step s = .next s := by simp [step, serveNext, h]

theorem step_event {s : State} {e : HostEvent} {rest : List HostEvent} (h : s.pending = e :: rest) :
    step s = serve e (s.withPending rest) := by simp [step, serveNext, h]

theorem serve_read {off : Offset} (h : Offset.isAligned off = true) (s : State) :
    serve (.read .word off) s = .next (s.withReadLog (memRead off s :: s.readLog)) := by
  simp [serve, AccessSize.isWord, h]

theorem serve_write {off : Offset} (h : Offset.isAligned off = true) (hc : isCmd off = false) (w : Word) (s : State) :
    serve (.write .word off w) s = .next (memWrite off w s) := by
  simp [serve, AccessSize.isWord, h, hc]

theorem serve_command {off : Offset} (h : Offset.isAligned off = true) (hc : isCmd off = true) (w : Word) (s : State) :
    serve (.write .word off w) s = runCommand w s := by
  simp [serve, AccessSize.isWord, h, hc]

/-- A run of no steps. -/
theorem run_zero (s : State) : core.run 0 s = .next s := rfl

/-- A run whose first step answers a next state goes on from there. -/
theorem run_succ {s t : State} (h : step s = .next t) (k : Nat) : core.run (k + 1) s = core.run k t := by
  have h' : core.step s = .next t := h
  have hr := Host.Core.run.eq_2 core s k
  rw [h'] at hr
  exact hr

/-- The offsets at which a word access is served. -/
theorem isAligned_iff (off : Offset) : Offset.isAligned off = true ↔ off.toNat % 4 = 0 := by
  revert off; decide

/-- The only aligned offset of CMD is 0x00. -/
theorem eq_zero_of_isCmd {off : Offset} (h : Offset.isAligned off = true) (hc : isCmd off = true) : off = 0x00#5 := by
  revert off; decide

/-- Everything a step that answers a next state can have done. -/
theorem step_cases {s s' : State} (h : step s = .next s') :
    (s.pending = [] ∧ s' = s) ∨
    ∃ e rest, s.pending = e :: rest ∧
      ((∃ off, e = .read .word off ∧ Offset.isAligned off = true ∧
          s' = (s.withPending rest).withReadLog (memRead off s :: s.readLog)) ∨
       (∃ off w, e = .write .word off w ∧ Offset.isAligned off = true ∧ isCmd off = false ∧
          s' = memWrite off w (s.withPending rest)) ∨
       (∃ off w i, e = .write .word off w ∧ Offset.isAligned off = true ∧ isCmd off = true ∧ decode w = .ok i ∧
          exec i (s.withPending rest) = .next s') ∨
       (∃ off w c, e = .write .word off w ∧ Offset.isAligned off = true ∧ isCmd off = true ∧ decode w = .error c ∧
          s' = takeBad (s.withPending rest)) ∨
       (e = .powerOn ∧ s' = (State.reset.withPending rest).withReadLog s.readLog)) := by
  cases hp : s.pending with
  | nil => rw [step_idle hp] at h; cases h; exact .inl ⟨rfl, rfl⟩
  | cons e rest =>
    rw [step_event hp] at h
    refine .inr ⟨e, rest, rfl, ?_⟩
    cases e with
    | read size off =>
      simp only [serve] at h
      cases size <;> simp [AccessSize.isWord] at h
      split at h <;> cases h
      rename_i ha
      exact .inl ⟨off, rfl, by simpa using ha, rfl⟩
    | write size off w =>
      simp only [serve] at h
      cases size <;> simp [AccessSize.isWord] at h
      split at h
      · cases h
      · rename_i ha
        have ha : Offset.isAligned off = true := by simpa using ha
        split at h
        · rename_i hc
          unfold runCommand at h
          split at h
          · rename_i i hd
            exact .inr (.inr (.inl ⟨off, w, i, rfl, ha, hc, hd, h⟩))
          · rename_i c hd
            cases h
            exact .inr (.inr (.inr (.inl ⟨off, w, c, rfl, ha, hc, hd, rfl⟩)))
        · rename_i hc
          cases h
          exact .inr (.inl ⟨off, w, rfl, ha, by simpa using hc, rfl⟩)
    | powerOn =>
      simp only [serve] at h
      cases h
      exact .inr (.inr (.inr (.inr ⟨rfl, rfl⟩)))

end Sys2Proof.Machine
end

