-- ==== Sys2Proof/Tests/Slice0.lean ====
section
/-! SUPPORT. Tests of the model, expected values from spec/95_test_vectors.md (V-…, S…, P…) or written out from the
spec's tables, and a witness for every statement that has hypotheses. -/

namespace Sys2Proof.Machine

set_option Elab.async false -- one theorem at a time: many threads at once exceed the memory limit of the check

/-! ### Well-formedness: each check refuses an ill-formed term -/

theorem test_wf_refuses_narrow_read : HostEvent.wf (.read .half 0x04#5) = false := by decide
theorem test_wf_refuses_narrow_write : HostEvent.wf (.write .byte 0x00#5 0#32) = false := by decide
theorem test_wf_refuses_misaligned_read : HostEvent.wf (.read .word 0x06#5) = false := by decide
theorem test_wf_refuses_misaligned_write : HostEvent.wf (.write .word 0x01#5 0#32) = false := by decide
theorem test_wf_accepts_every_index : (Instr.setParam 255#8).wf = true := by decide

/-! ### Decoding: words written out from 30_encoding.md R54 and R56 (OPC, RSVD, IDX) -/

theorem test_decode_nop : decode 0b00000000000000000000000000000000#32 = .ok .nop := by decide
theorem test_decode_init : decode 0b00000001000000000000000000000000#32 = .ok .init := by decide
theorem test_decode_setFs : decode 0b00000010000000000000000000000000#32 = .ok .setFs := by decide
theorem test_decode_loadDefaults : decode 0b00000011000000000000000000000000#32 = .ok .loadDefaults := by decide
theorem test_decode_setParam : decode 0b00010000000000000000000000000100#32 = .ok (.setParam 4#8) := by decide
theorem test_decode_getParam : decode 0b00010001000000000000000010000001#32 = .ok (.getParam 129#8) := by decide
theorem test_decode_frame : decode 0b00100000000000000000000000000000#32 = .ok .frame := by decide
/-- V-EN-10. -/
theorem test_decode_bad :
    decode 0x1100FF00#32 = .error .reservedNonzero ∧ decode 0xFF000000#32 = .error .unassignedOpcode ∧
    decode 0x20000001#32 = .error .indexNonzero := by decide
theorem test_decodeTableWord : decodeTableWord 32 0x10000002 = some (.setParam 2#8) := by decide

/-! ### Arithmetic and helper functions -/

/-- The products and sum of V-SM-3's second step. -/
theorem test_smoother_step :
    smNext 0x466A6000#32 ⟨0x472C4400#32, 0x41200000#32, 0x3F7C60E4#32, 0x3C67C700#32, 0x435432D1#32⟩ =
      0x43D2B294#32 := by decide +kernel
/-- V-OSC-1: a subnormal quotient, and one that overflows. -/
theorem test_increment_corners :
    oscInc Config.rateMin 0x7F7FFFFF#32 = 0x000051EC#32 ∧ oscInc f1 0x00000001#32 = 0x7F800000#32 := by
  decide +kernel
/-- V-OSC-5. -/
theorem test_phase_corners :
    frac (fadd f0 0x40200000#32) = 0x3F000000#32 ∧ frac (fadd 0x3F7FFFFF#32 0x33000000#32) = f0 ∧
    frac (fadd 0x3F400000#32 0x32800000#32) = 0x3F400000#32 ∧ frac (fadd f0 0x7F800000#32) = f0 := by
  decide +kernel
/-- V-OSC-2, the last row, for the waveforms that use no field. -/
theorem test_waves_at_first_tick :
    wave .triangle 0x37BE37C6#32 = 0xBF7FFA0E#32 ∧ wave .sawtooth 0x37BE37C6#32 = 0xBF7FFD07#32 := by
  decide +kernel
/-- V-SM-1, its `q` negated, and the rest of it at a field that answers the reference value. -/
theorem test_smCoef_default (h : expF32 0xBC696EB4#32 = 0x3F7C60E4#32) :
    smCoef Config.smoothTimeMs Config.fsDefault = (0x3F7C60E4#32, 0x3C67C700#32) := by
  have e : smExponent Config.smoothTimeMs Config.fsDefault = 0xBC696EB4#32 := by decide +kernel
  have b : fsub f1 0x3F7C60E4#32 = 0x3C67C700#32 := by decide +kernel
  rw [smCoef, e, h, b]
/-- V-FC-1, at fields that answer the correctly rounded cosine and sine of its w0. -/
theorem test_fltCoef_default (hc : cosF32 0x4008C6DE#32 = 0xBF095B3C#32) (hs : sinF32 0x4008C6DE#32 = 0x3F5807D6#32) :
    fltCoef Config.cutDefault Config.resDefault Config.fsDefault =
      ⟨0x3EF65ADD#32, 0x3F765ADD#32, 0x3EF65ADD#32, 0x3F2C0CB9#32, 0x3E815203#32⟩ := by
  have w : fltOmega Config.cutDefault Config.fsDefault = 0x4008C6DE#32 := by decide +kernel
  rw [fltCoef, w, hc, hs]
  decide +kernel
/-- V-FC-14: w0 = 0.0, where T2 settles both fields. -/
theorem test_fltCoef_tiny_rate :
    fltCoef Config.cutDefault f0 0x00000001#32 = ⟨f0, f0, f0, 0xC0000000#32, 0x3F800000#32⟩ := by decide +kernel

/-! ### Commands, one step each -/

/-- The reset state with the coefficients the reference fields give (V-SM-1, V-FC-1) written out. -/
def vectorState : State :=
  ((State.reset.withSm ⟨0x472C4400#32, 0x41200000#32, 0x3F7C60E4#32, 0x3C67C700#32, f0⟩).withFl
    ⟨0x472C4400#32, 0x466A6000#32, f0, ⟨0x3EF65ADD#32, 0x3F765ADD#32, 0x3EF65ADD#32, 0x3F2C0CB9#32, 0x3E815203#32⟩,
      f0, f0, f0, f0⟩).withFr
    ⟨0x472C4400#32, 0x466A6000#32, f0, ⟨0x3EF65ADD#32, 0x3F765ADD#32, 0x3EF65ADD#32, 0x3F2C0CB9#32, 0x3E815203#32⟩,
      f0, f0, f0, f0⟩

/-- One field of the state a command answers. -/
def after {α : Type} (i : Instr) (s : State) (field : State → α) : Option α :=
  match exec i s with
  | .next t => some (field t)
  | .fault _ => none
  | .refused _ => none

/-- V-EN-1. -/
theorem test_nop : exec .nop vectorState = .next vectorState := rfl
/-- V-EN-16: INIT at 2^-149. -/
theorem test_init_tiny_rate :
    after .init ((vectorState.withOp0 0x00000001#32).withBadcmd true)
      (fun t => (t.fs, t.osc.inc, t.fl.coef.a1, t.badcmd, t.op0)) =
      some (0x00000001#32, 0x7F800000#32, 0xC0000000#32, false, 0x00000001#32) := by decide +kernel
/-- V-EN-16: a NaN rate. -/
theorem test_init_nan :
    after .init (vectorState.withOp0 0x7FC00000#32) (fun t => (t.fs, t.osc.inc)) =
      some (0x472C4400#32, 0x37BE37C6#32) := by decide +kernel
/-- V-EN-15: SET_FS 48000.0 after SET_PARAM 3, 25.0. -/
theorem test_setFs_increment :
    after .setFs
      (((vectorState.withOp0 0x473B8000#32).withParams { State.reset.params with lfoFrequency := 0x41C80000#32 }).withOsc
        { State.reset.osc with rate := 0x41C80000#32 })
      (fun t => (t.fs, t.osc.inc, t.sm.fs, t.fl.fs)) =
      some (0x473B8000#32, 0x3A088889#32, 0x473B8000#32, 0x473B8000#32) := by decide +kernel
/-- V-EN-15: SET_FS -1.0 from reset changes nothing. -/
theorem test_setFs_invalid_is_unchanged :
    exec .setFs (vectorState.withOp0 0xBF800000#32) = .next (vectorState.withOp0 0xBF800000#32) := by
  have h : feq (coerceFs 0xBF800000#32) 0x472C4400#32 = true := by decide +kernel
  show Host.Outcome.next (if feq (coerceFs 0xBF800000#32) 0x472C4400#32 then _ else _) = _
  rw [if_pos h]
/-- V-EN-4: LOAD_DEFAULTS takes the cutoff back to 15000.0 and keeps SM.Z. -/
theorem test_loadDefaults :
    after .loadDefaults
      ((vectorState.withFl { vectorState.fl with cut := 0x439CF00B#32 }).withSm { vectorState.sm with z := 0x441CE878#32 })
      (fun t => (t.fl.cut, t.sm.z, t.params.lfoModDepth)) = some (0x466A6000#32, 0x441CE878#32, f0) := by
  decide +kernel
/-- V-OSC-6: 2.7 is stored as it is and selects Sawtooth. -/
theorem test_setParam_waveform :
    after (.setParam 2#8) (vectorState.withOp0 0x402CCCCD#32) (fun t => (t.params.lfoWaveform, t.osc.wave)) =
      some (0x402CCCCD#32, .sawtooth) := by decide +kernel
/-- V-OSC-7: 100.0 Hz is clamped to 25.0 Hz. -/
theorem test_setParam_rate :
    after (.setParam 3#8) (vectorState.withOp0 0x42C80000#32) (fun t => (t.params.lfoFrequency, t.osc.rate, t.osc.inc)) =
      some (0x41C80000#32, 0x41C80000#32, 0x3A149B93#32) := by decide +kernel
/-- V-EN-12. -/
theorem test_getParam_out_of_range :
    after (.getParam 7#8) (vectorState.withRes0 0x3F800000#32) (fun t => t.res0) = some 0x00000000#32 := by
  decide +kernel
/-- S1. -/
theorem test_getParam_cutoff : after (.getParam 0#8) vectorState (fun t => t.res0) = some 0x466A6000#32 := by
  decide +kernel
/-- V-EN-17, its first FRAME: 1.0, -1.0. -/
theorem test_frame_unmodulated :
    after .frame ((vectorState.withOp0 0x3F800000#32).withOp1 0xBF800000#32)
      (fun t => (t.res0, t.res1, t.osc.phase, t.sm.z)) =
      some (0x3EF65ADD#32, 0xBEF65ADD#32, 0x37BE37C6#32, 0x00000000#32) := by decide +kernel
/-- S5, d = 100.0's neighbour d = 1200.0: Square, one octave up. -/
theorem test_frame_one_octave :
    after .frame
      ((vectorState.withParams { State.reset.params with lfoModDepth := 0x44960000#32 }).withOsc
        { State.reset.osc with wave := .square })
      (fun t => (t.sm.z, t.fl.cut, t.fr.cut)) = some (0x435432D1#32, 0x43D432D1#32, 0x43D432D1#32) := by
  decide +kernel

/-! ### Witnesses: a state and operands that meet the hypotheses of each statement that has some -/

/-- A state with one event to serve. -/
def oneEvent (e : HostEvent) : State := State.reset.withPending [e]

theorem test_witness_invariants : (oneEvent (.write .word 0x00#5 0x20000000#32)).Inv := by
  constructor <;> first | rfl | decide | (constructor <;> decide)
theorem test_witness_DecodeOfEncode : (Instr.setParam 255#8).wf = true := by decide
theorem test_witness_EncodeOfDecode : decode 0x110000FF#32 = .ok (.getParam 255#8) := by decide
theorem test_witness_OpcodeTableSelectsWhatDecodes :
    decode 0x10000000#32 = .ok (.setParam 0#8) ∧
    (⟨"SET_PARAM", 0x10000000#32, 0xFFFFFF00#32⟩ : OpcodeRow) ∈ opcodeTable ∧
    (⟨"SET_PARAM", 0x10000000#32, 0xFFFFFF00#32⟩ : OpcodeRow).selects 0x10000000#32 = true := by decide +kernel
theorem test_witness_DecodeFollowsTheFields :
    (0x0001#16 ≠ 0#16) ∧ (0x0000#16 = 0#16 ∧ 0x04#8 ≠ 0x10#8 ∧ 0x04#8 ≠ 0x11#8 ∧ 0x01#8 ≠ 0#8 ∧
      0x04#8 ∉ [0x00#8, 0x01#8, 0x02#8, 0x03#8, 0x20#8]) := by decide
theorem test_witness_IllegalWordsOnlySetBadcmd :
    decode 0x00000100#32 = .error .reservedNonzero ∧ decode 0x04000000#32 = .error .unassignedOpcode ∧
    decode 0x00000001#32 = .error .indexNonzero ∧
    (oneEvent (.write .word 0x00#5 0x04000000#32)).pending = [.write .word 0x00#5 0x04000000#32] := by decide +kernel
theorem test_witness_StepRunsTheDecodedCommand :
    (oneEvent (.write .word 0x00#5 0x110000FF#32)).pending = [.write .word 0x00#5 0x110000FF#32] ∧
    decode 0x110000FF#32 = .ok (.getParam 255#8) ∧ (Instr.getParam 255#8).wf = true := by decide +kernel
theorem test_witness_IdleStepChangesNothing : State.reset.pending = [] := rfl
theorem test_witness_ReadsReturnTheRegisters :
    (0x1C#5 : Offset).toNat % 4 = 0 ∧ (oneEvent (.read .word 0x1C#5)).pending = [.read .word 0x1C#5] ∧
    (State.reset.withPending [.read .word 0x00#5, .read .word 0x00#5]).pending =
      [.read .word 0x00#5, .read .word 0x00#5] := by decide +kernel
theorem test_witness_WritesReachOnlyTheirRegister :
    (0x14#5 : Offset).toNat % 4 = 0 ∧ (0x14#5 : Offset) ≠ 0x00#5 ∧
    (oneEvent (.write .word 0x14#5 1#32)).pending = [.write .word 0x14#5 1#32] := by decide +kernel
theorem test_witness_NarrowOrMisalignedIsRefused :
    (oneEvent (.read .byte 0x04#5)).pending = [.read .byte 0x04#5] ∧
    (oneEvent (.write .word 0x1F#5 0#32)).pending = [.write .word 0x1F#5 0#32] ∧ (0x1F#5 : Offset).toNat % 4 ≠ 0 := by
  decide +kernel
theorem test_witness_WordAccessesNeverStop : portOk (oneEvent (.read .word 0x18#5)) = true := by decide +kernel
/-- The set clause, and each way of clearing. -/
theorem test_witness_BadcmdChangesOnlyByItsRules :
    (∃ t, step (oneEvent (.write .word 0x00#5 0x30000000#32)) = .next t ∧ t.badcmd = true) ∧
    (∃ t, step ((oneEvent (.write .word 0x14#5 0xFFFFFFFF#32)).withBadcmd true) = .next t ∧ t.badcmd = false) ∧
    (∃ t, step ((oneEvent (.write .word 0x00#5 0x01000000#32)).withBadcmd true) = .next t ∧ t.badcmd = false) ∧
    (∃ t, step ((oneEvent .powerOn).withBadcmd true) = .next t ∧ t.badcmd = false) := by
  refine ⟨⟨_, rfl, rfl⟩, ⟨_, rfl, rfl⟩, ⟨_, rfl, ?_⟩, ⟨_, rfl, rfl⟩⟩
  exact (loadDefaults_frame _).badcmd
theorem test_witness_OperandRegistersAreStorage :
    (State.reset.withPending [.write .word 0x08#5 7#32, .read .word 0x08#5]).pending =
      [.write .word 0x08#5 7#32, .read .word 0x08#5] ∧ decode 0x00000000#32 = .ok .nop := by decide +kernel
theorem test_witness_ResultRegistersChangeOnlyByTheirRules :
    Instr.setFs ≠ .frame ∧ Instr.setFs ≠ .init ∧ (∀ idx, Instr.setFs ≠ .getParam idx) ∧
    decode 0x20000001#32 = .error .indexNonzero := by
  refine ⟨by decide, by decide, ?_, by decide⟩
  intro idx h
  cases h
theorem test_witness_PowerOnIsInitAtTheDefaultRate : (oneEvent .powerOn).pending = [.powerOn] := rfl
/-- An invariant-keeping step that runs a command. -/
theorem test_witness_EveryStepKeepsTheInvariants :
    ∃ s t : State, s.Inv ∧ smoothedInRange s = true ∧ step s = .next t ∧ s.pending ≠ [] :=
  ⟨oneEvent (.write .word 0x00#5 0x20000000#32), _, test_witness_invariants, by decide, rfl,
    List.cons_ne_nil _ _⟩
theorem test_witness_OnlyFrameInitAndResetMoveTheHistory :
    ∃ t, step (oneEvent (.write .word 0x00#5 0x00000000#32)) = .next t ∧ t.osc.phase = f0 := ⟨_, rfl, rfl⟩
theorem test_witness_InitRebuildsTheBlock : coerceFs 0x80000000#32 = 0x472C4400#32 := by decide
theorem test_witness_SetParamsOfDifferentParametersCommute : (0#8 : BitVec 8) ≠ 255#8 := by decide
theorem test_witness_SetFsPropagatesTheRate : coerceFs 0x473B8000#32 = 0x473B8000#32 ∧ feq 0x473B8000#32 0x472C4400#32 = false := by
  decide +kernel
theorem test_witness_SetParamStoresAndForwards : 5 ≤ (5#8).toNat ∧ isNaN 0x7FC00000#32 = true ∧ isNaN 0x402CCCCD#32 = false := by
  decide
/-- Each clause at an end of the range of `P[3]`. -/
theorem test_witness_SetThenGetRoundTrip :
    paramRange (3#8).toNat = some (Config.rateMin, Config.rateMax) ∧
    (fle Config.rateMin Config.rateMin = true ∧ fle Config.rateMin Config.rateMax = true) ∧
    flt 0x3C23D709#32 Config.rateMin = true ∧ flt Config.rateMax 0x41C80001#32 = true ∧
    isNaN 0x7FC00000#32 = true := by decide +kernel
theorem test_witness_FrameProcessesOneStereoSample :
    ∃ (s : State) (phase lfo z m : F32) (fl fr : Filter) (outL outR : F32),
      phase = frac (fadd s.osc.phase s.osc.inc) ∧ lfo = wave s.osc.wave phase ∧
      z = fadd (fmul s.params.cutoff s.sm.b) (fmul s.sm.z s.sm.a) ∧
      m = clamp (fmul z (exp2F32 (fdiv (fmul lfo s.params.lfoModDepth) Config.centsPerOctave)))
            Config.cutMin Config.cutMax ∧
      fl = (if feq s.params.lfoModDepth f0 || isNaN m then s.fl
            else { s.fl with cut := m, coef := fltCoef m s.fl.res s.fl.fs }) ∧
      fr = (if feq s.params.lfoModDepth f0 || isNaN m then s.fr
            else { s.fr with cut := m, coef := fltCoef m s.fr.res s.fr.fs }) ∧
      outL = fltOutput { s.fl with coef := fl.coef } s.op0 ∧ outR = fltOutput { s.fr with coef := fr.coef } s.op1 ∧
      phase = 0x37BE37C6#32 ∧ z = 0x435432D1#32 :=
  ⟨vectorState, _, _, _, _, _, _, _, _, rfl, rfl, rfl, rfl, rfl, rfl, rfl, rfl, by decide +kernel, by decide +kernel⟩
theorem test_witness_FrameAtZeroDepthKeepsTheCutoff : State.reset.params.lfoModDepth = 0x00000000#32 := rfl
theorem test_witness_EqualLanesGiveEqualOutputs :
    ∃ s : State, s.Inv ∧ s.op0 = s.op1 ∧ s.fl.x1 = s.fr.x1 ∧ s.fl.x2 = s.fr.x2 ∧ s.fl.y1 = s.fr.y1 ∧ s.fl.y2 = s.fr.y2 :=
  ⟨oneEvent (.write .word 0x00#5 0x20000000#32), test_witness_invariants, rfl, rfl, rfl, rfl, rfl⟩
/-- The largest phase below 1.0 and the infinite increment. -/
theorem test_witness_TickKeepsThePhaseInTheUnitInterval :
    fle f0 0x3F7FFFFF#32 = true ∧ flt 0x3F7FFFFF#32 f1 = true ∧ fle f0 0x7F800000#32 = true := by decide
theorem test_witness_WaveformsStayInTheirRanges :
    fle f0 0x80000000#32 = true ∧ flt 0x3F7FFFFF#32 f1 = true := by decide
theorem test_witness_IncrementIsPositive : ∃ s : State, s.Inv := ⟨_, test_witness_invariants⟩
theorem test_witness_ComparisonsFollowTheValues :
    isNaN 0xFFFFFFFF#32 = true ∧ isFinite 0xFF7FFFFF#32 = true ∧ isFinite 0x80000000#32 = true := by decide
/-- Each clause: a NaN, both zeros and a nonzero value, an infinity beside each, and two infinities. -/
theorem test_witness_ZerosInfinitiesAndNaNsFollowIEEE :
    isNaN 0x7F800001#32 = true ∧
    (isFinite 0x80000000#32 = true ∧ value 0x80000000#32 + value 0x00000000#32 = 0 ∧
      isFinite 0x00000001#32 = true ∧ value 0x00000001#32 ≠ 0) ∧
    (isInf 0xFF800000#32 = true ∧ isInf 0x7F800000#32 = true ∧ sgn 0xFF800000#32 ≠ sgn 0x7F800000#32) := by
  decide +kernel
theorem test_witness_FracIsExact : isFinite 0x7F7FFFFF#32 = true ∧ sgn 0x7F7FFFFF#32 = false := by decide
/-- A quarter phase, where T3 settles the field: 2.0. -/
theorem test_witness_ExponentialStaysInItsRange :
    0x40000000#32 = exp2F32 (fmul f4 0x3E800000#32) ∧ fle f1 0x40000000#32 = true ∧
    flt 0x40000000#32 0x41800000#32 = true := by decide +kernel
theorem test_witness_SilenceGivesSilence :
    within Config.cutMin Config.cutMax Config.cutMax = true ∧ within Config.resMin Config.resMax Config.resMax = true ∧
    isPosFinite 0x00000001#32 = true := by decide
/-- 2^24 + 1 is a tie between 2^24 and 2^24 + 2. -/
theorem test_witness_RoundingIsToNearestTiesToEven :
    (0 < 1 ∧ 0x01000001 < magInf ∧ roundMag (2 ^ 24 + 1) 1 < magInf) ∧ roundMag (2 ^ 24 + 1) 1 = 0x01000000 := by
  decide +kernel
theorem test_witness_FiniteOperationsRoundTheirExactResult :
    isFinite 0x7F7FFFFF#32 = true ∧ isFinite 0x80000001#32 = true ∧ value 0x7F7FFFFF#32 + value 0x80000001#32 ≠ 0 ∧
    value 0x7F7FFFFF#32 - value 0x80000001#32 ≠ 0 ∧ value 0x7F7FFFFF#32 * value 0x80000001#32 ≠ 0 ∧
    value 0x7F7FFFFF#32 ≠ 0 ∧ value 0x80000001#32 ≠ 0 := by decide +kernel
theorem test_witness_TranscendentalFieldsMeetTheirProperties :
    (isFinite 0xC2FC0000#32 = true ∧ value 0xC2FC0000#32 = -126 * 2 ^ 149) ∧ fle 0xFF800000#32 f0 = true ∧
    (fle 0xC1100000#32 0x41100000#32 = true ∧ fle 0x41100000#32 0x41100000#32 = true) := by decide +kernel
theorem test_witness_CoercedRateIsValid :
    (isFinite 0x00000001#32 = true ∧ flt f0 0x00000001#32 = true) ∧ fle 0x80000000#32 f0 = true ∧
    isNaN 0x7FC00000#32 = true ∧ isInf 0x7F800000#32 = true := by decide

end Sys2Proof.Machine
end

section
/-! PROOFS. The arithmetic of 00_scope.md: rounding, the operations on finite operands, comparisons, quiet NaNs, the
transcendental fields, the fractional part, rates and constants. -/

namespace Sys2Proof.Machine

/-! ### Rounding between two neighbours -/

/-- A significand of 24 bits that has its hidden bit, or stands at the least exponent, is encoded
at its own exponent. -/
theorem units_exponent_add {u M : Nat} (hM : M ≤ 2 ^ 24) (hu : 0 < u → 2 ^ 23 ≤ M) :
    units (u * 2 ^ 23 + M) = M * 2 ^ u := by
  rcases Nat.lt_or_eq_of_le hM with hlt | rfl
  · have hplace : lastPlace (u * 2 ^ 23 + M) = u := by unfold lastPlace; omega
    rw [units_eq, signif, hplace, Nat.add_sub_cancel_left]
  · have hplace : lastPlace (u * 2 ^ 23 + 2 ^ 24) = u + 1 := by unfold lastPlace; omega
    have hsignif : signif (u * 2 ^ 23 + 2 ^ 24) = 2 ^ 23 := by rw [signif, hplace]; omega
    rw [units_eq, hsignif, hplace, Nat.pow_succ]
    ring

/-- What `roundQuot` decides, on the remainder: the nearer integer, and the even one at a tie. -/
theorem roundQuot_cases (num den : Nat) :
    (2 * (num % den) < den ∧ roundQuot num den = num / den) ∨
    (den < 2 * (num % den) ∧ roundQuot num den = num / den + 1) ∨
    (2 * (num % den) = den ∧ roundQuot num den = num / den + num / den % 2) := by
  unfold roundQuot
  split <;> omega

/-- The exact value `num / den` stands between the neighbours `n` and `n + 1`, and rounds to the nearer one, to the even
one at a tie. -/
structure RoundsBetween (num den n : Nat) : Prop where
  low_le : units n * den ≤ num
  lt_high : num < units (n + 1) * den
  cases :
    (2 * num < units n * den + units (n + 1) * den ∧ roundMag num den = min n magInf) ∨
    (units n * den + units (n + 1) * den < 2 * num ∧ roundMag num den = min (n + 1) magInf) ∨
    (2 * num = units n * den + units (n + 1) * den ∧ roundMag num den = min (n + n % 2) magInf)

theorem exists_roundsBetween (num : Nat) {den : Nat} (hd : 0 < den) : ∃ n, RoundsBetween num den n := by
  have hround : roundMag num den =
    min (ulpShift (num / den) * 2 ^ 23 + roundQuot num (den * 2 ^ ulpShift (num / den))) magInf := rfl
  have hquot := quot_lt num den
  have hhidden := @le_quot num den
  generalize ulpShift (num / den) = u at *
  have hcases := roundQuot_cases num (den * 2 ^ u)
  have hdiv := Nat.div_add_mod num (den * 2 ^ u)
  have hmod := Nat.mod_lt num (Nat.mul_pos hd (Nat.two_pow_pos u))
  generalize num / (den * 2 ^ u) = q at *
  have hlow : units (u * 2 ^ 23 + q) * den = den * 2 ^ u * q := by
    rw [units_exponent_add hquot.le hhidden]; ring
  have hhigh : units (u * 2 ^ 23 + q + 1) * den = den * 2 ^ u * q + den * 2 ^ u := by
    rw [Nat.add_assoc, units_exponent_add (M := q + 1) hquot (fun h => (hhidden h).trans (q.le_add_right 1))]; ring
  have hparity : (u * 2 ^ 23 + q) % 2 = q % 2 := by omega
  refine ⟨u * 2 ^ 23 + q, by omega, by omega, ?_⟩
  rw [hlow, hhigh, hround, hparity]
  rcases hcases with ⟨hlt, hq⟩ | ⟨hgt, hq⟩ | ⟨htie, hq⟩
  · exact .inl ⟨by omega, by rw [hq]⟩
  · exact .inr (.inl ⟨by omega, by rw [hq, Nat.add_assoc]⟩)
  · exact .inr (.inr ⟨by omega, by rw [hq, Nat.add_assoc]⟩)

/-- No representable value stands strictly between two neighbours: the others are below the lower or above the upper. -/
theorem units_mul_cases (m n : Nat) {den : Nat} (hd : 0 < den) :
    (m < n ∧ units m * den < units n * den) ∨ m = n ∨ m = n + 1 ∨
    (n + 1 < m ∧ units (n + 1) * den < units m * den) := by
  have hlow : m < n → units m * den < units n * den := fun h => Nat.mul_lt_mul_of_pos_right (units_lt_units h) hd
  have hhigh : n + 1 < m → units (n + 1) * den < units m * den :=
    fun h => Nat.mul_lt_mul_of_pos_right (units_lt_units h) hd
  omega

/-- A finite rounding has its lower neighbour below infinity. -/
theorem RoundsBetween.lt_magInf {num den n : Nat} (h : RoundsBetween num den n) (hfin : roundMag num den < magInf) :
    n < magInf := by
  rcases h.cases with ⟨_, hr⟩ | ⟨_, hr⟩ | ⟨_, hr⟩ <;> omega

/-- Overflow: infinity from the middle between the largest finite value and the next one on. -/
theorem roundMag_eq_magInf_iff (num : Nat) {den : Nat} (hd : 0 < den) :
    roundMag num den = magInf ↔ (units (magInf - 1) + units magInf) * den ≤ 2 * num := by
  obtain ⟨n, hlow, hhigh, hcases⟩ := exists_roundsBetween num hd
  have hmono : ∀ {k l : Nat}, k ≤ l → units k * den ≤ units l * den :=
    fun h => Nat.mul_le_mul_right den (units_le_units h)
  obtain ⟨top, hinf, hodd⟩ : ∃ top, magInf = top + 1 ∧ top % 2 = 1 := ⟨0x7F7FFFFF, rfl, rfl⟩
  rw [hinf] at hcases ⊢
  rw [Nat.add_sub_cancel, Nat.add_mul]
  have htop : units top * den ≤ units (top + 1) * den := hmono (Nat.le_succ top)
  rcases Nat.lt_trichotomy n top with hlt | rfl | hgt
  · have hbelow : units (n + 1) * den ≤ units top * den := hmono hlt
    exact iff_of_false (by omega) (by omega)
  · omega
  · have habove : units (top + 1) * den ≤ units n * den := hmono hgt
    exact iff_of_true (by omega) (by omega)

/-- No finite value is nearer to the exact one than its rounding, and one as near is a tie that went to the even one. -/
theorem roundMag_nearest {num den m : Nat} (hd : 0 < den) (hfin : roundMag num den < magInf) :
    ((num : Int) - units (roundMag num den) * den).natAbs ≤ ((num : Int) - units m * den).natAbs ∧
    (((num : Int) - units (roundMag num den) * den).natAbs = ((num : Int) - units m * den).natAbs →
      m ≠ roundMag num den → roundMag num den % 2 = 0) := by
  obtain ⟨n, hbetween⟩ := exists_roundsBetween num hd
  have hn := hbetween.lt_magInf hfin
  obtain ⟨hlow, hhigh, hcases⟩ := hbetween
  have hm := units_mul_cases m n hd
  have hr : (roundMag num den = n ∧ 2 * num ≤ units n * den + units (n + 1) * den ∧
        (2 * num = units n * den + units (n + 1) * den → n % 2 = 0)) ∨
      (roundMag num den = n + 1 ∧ units n * den + units (n + 1) * den ≤ 2 * num ∧
        (2 * num = units n * den + units (n + 1) * den → (n + 1) % 2 = 0)) := by omega
  simp only [← Int.natCast_mul]
  rcases hr with ⟨hr, hnear, heven⟩ | ⟨hr, hnear, heven⟩
  · rw [hr]
    rcases hm with ⟨hlt, hmul⟩ | rfl | rfl | ⟨hgt, hmul⟩ <;> exact ⟨by omega, by omega⟩
  · rw [hr]
    rcases hm with ⟨hlt, hmul⟩ | rfl | rfl | ⟨hgt, hmul⟩ <;> exact ⟨by omega, by omega⟩

/-- Settles O44: the exact value stands between two neighbours, of which rounding takes the nearer. -/
theorem roundingIsToNearestTiesToEven : Obligations.RoundingIsToNearestTiesToEven :=
  ⟨fun _ _ _ hd _ hfin => roundMag_nearest hd hfin, fun num _ hd => roundMag_eq_magInf_iff num hd⟩

/-! ### The operations on finite operands -/

theorem natAbs_value (x : F32) : (value x).natAbs = units (mag x) := by
  unfold value
  split <;> simp

/-- The sign of a nonzero product or quotient is minus where the operands' signs differ. -/
theorem sgn_bne_eq_of_value_mul_ne_zero {a b : F32} (h : value a * value b ≠ 0) :
    (sgn a != sgn b) = decide (value a * value b < 0) := by
  have hpos : 0 < (units (mag a) : Int) * units (mag b) := by
    have hne : ((value a * value b).natAbs : Int) ≠ 0 := by simpa using h
    rw [Int.natAbs_mul, natAbs_value, natAbs_value] at hne
    push_cast at hne
    positivity
  rw [value_eq, value_eq]
  cases sgn a <;> cases sgn b <;> simp <;> omega

theorem addFinite_of_ne_zero {a b : F32} (h : value a + value b ≠ 0) :
    addFinite a b = withSign (decide (value a + value b < 0)) (roundMag (value a + value b).natAbs 1) := if_neg h

/-- Settles O45, operation by operation: the sum and the difference are rounded from their values, the product and the
quotient from their magnitudes. -/
theorem finiteOperationsRoundTheirExactResult : Obligations.FiniteOperationsRoundTheirExactResult := by
  intro a b ha hb
  refine ⟨fun h => ?_, fun h => ?_, fun h => ?_, fun hna hnb => ?_⟩
  · rw [fadd_of_finite ha hb, addFinite_of_ne_zero h]
  · rw [sub_eq_add_neg, ← value_fneg] at h ⊢
    rw [fsub_of_finite ha hb, addFinite_of_ne_zero h]
  · rw [fmul_of_finite ha hb, sgn_bne_eq_of_value_mul_ne_zero h, Int.natAbs_mul, natAbs_value, natAbs_value]
  · have hz : isZero b = false := by rwa [Ne, value_eq_zero_iff, Bool.not_eq_true] at hnb
    rw [fdiv_of_finite ha hb hz, sgn_bne_eq_of_value_mul_ne_zero (mul_ne_zero hna hnb), natAbs_value, natAbs_value]

/-! ### Comparisons -/

theorem isNaN_iff_mag (x : F32) : isNaN x = true ↔ magInf < mag x := decide_eq_true_iff

theorem isFinite_iff_mag (x : F32) : isFinite x = true ↔ mag x < magInf := decide_eq_true_iff

/-- The exponent and fraction fields of an encoding, as parts of its magnitude field. -/
theorem toNat_fields_mag (x : F32) :
    (x.extractLsb' 23 8).toNat = mag x / 2 ^ 23 ∧ (x.extractLsb' 0 23).toNat = mag x % 2 ^ 23 := by
  simp only [mag, BitVec.extractLsb'_toNat, Nat.shiftRight_eq_div_pow, Nat.reducePow]
  omega

theorem isNaN_iff_fields (x : F32) :
    isNaN x = true ↔ x.extractLsb' 23 8 = 0xFF#8 ∧ x.extractLsb' 0 23 ≠ 0#23 := by
  obtain ⟨hexp, hfrac⟩ := toNat_fields_mag x
  have hlt := mag_lt x
  rw [isNaN_iff_mag, Ne, BitVec.toNat_eq, BitVec.toNat_eq, hexp, hfrac]
  simp only [magInf, BitVec.toNat_ofNat]
  omega

theorem isFinite_iff_fields (x : F32) : isFinite x = true ↔ x.extractLsb' 23 8 ≠ 0xFF#8 := by
  obtain ⟨hexp, _⟩ := toNat_fields_mag x
  have hlt := mag_lt x
  rw [isFinite_iff_mag, Ne, BitVec.toNat_eq, hexp]
  simp only [magInf, BitVec.toNat_ofNat]
  omega

theorem ordered_eq_false {a b : F32} (h : isNaN a = true ∨ isNaN b = true) : ordered a b = false := by
  rcases h with h | h <;> simp [ordered, h]

/-- With a NaN operand the three ordered comparisons are false and `!=` is true (00_scope.md R16). -/
theorem comparisons_of_unordered {a b : F32} (h : isNaN a = true ∨ isNaN b = true) :
    flt a b = false ∧ fle a b = false ∧ feq a b = false ∧ fne a b = true := by
  simp [flt, fle, feq, fne, ordered_eq_false h]

section Ordered
variable {a b : F32}

theorem flt_iff_key (ha : isNaN a = false) (hb : isNaN b = false) : flt a b = true ↔ key a < key b := by
  simp [flt_iff, ha, hb]

theorem fle_iff_key (ha : isNaN a = false) (hb : isNaN b = false) : fle a b = true ↔ key a ≤ key b := by
  simp [fle_iff, ha, hb]

theorem feq_iff_key (ha : isNaN a = false) (hb : isNaN b = false) : feq a b = true ↔ key a = key b := by
  simp [feq_iff, ha, hb]

theorem fne_iff_key (ha : isNaN a = false) (hb : isNaN b = false) : fne a b = true ↔ key a ≠ key b := by
  simp [fne, ← feq_iff_key ha hb]

/-- Finite operands compare as their exact values. -/
theorem comparisons_of_finite (ha : isFinite a = true) (hb : isFinite b = true) :
    (flt a b = true ↔ value a < value b) ∧ (fle a b = true ↔ value a ≤ value b) ∧
    (feq a b = true ↔ value a = value b) ∧ (fne a b = true ↔ value a ≠ value b) := by
  have hna := isNaN_false_of_finite ha
  have hnb := isNaN_false_of_finite hb
  rw [flt_iff_key hna hnb, fle_iff_key hna hnb, feq_iff_key hna hnb, fne_iff_key hna hnb, Ne, key_eq_iff_value_eq]
  exact ⟨key_lt_iff_value_lt a b, key_le_iff_value_le a b, Iff.rfl, Iff.rfl⟩

/-- +inf stands above everything else that is no NaN. -/
theorem comparisons_posInf (ha : isNaN a = false) :
    (flt a 0x7F800000#32 = true ↔ a ≠ 0x7F800000#32) ∧ flt 0x7F800000#32 a = false ∧
    fle a 0x7F800000#32 = true ∧ (fle 0x7F800000#32 a = true ↔ a = 0x7F800000#32) ∧
    (feq a 0x7F800000#32 = true ↔ a = 0x7F800000#32) ∧ (feq 0x7F800000#32 a = true ↔ a = 0x7F800000#32) ∧
    (fne a 0x7F800000#32 = true ↔ a ≠ 0x7F800000#32) ∧ (fne 0x7F800000#32 a = true ↔ a ≠ 0x7F800000#32) := by
  have hinf : isNaN 0x7F800000#32 = false := by decide
  have hkey : key 0x7F800000#32 = magInf := by decide
  obtain ⟨_, htop⟩ := key_bounds ha
  rw [← Bool.not_eq_true (flt _ a), flt_iff_key ha hinf, flt_iff_key hinf ha, fle_iff_key ha hinf,
    fle_iff_key hinf ha, feq_iff_key ha hinf, feq_iff_key hinf ha, fne_iff_key ha hinf, fne_iff_key hinf ha,
    Ne, eq_posInf_iff, hkey]
  omega

/-- -inf stands below everything else that is no NaN. -/
theorem comparisons_negInf (ha : isNaN a = false) :
    (flt 0xFF800000#32 a = true ↔ a ≠ 0xFF800000#32) ∧ flt a 0xFF800000#32 = false ∧
    fle 0xFF800000#32 a = true ∧ (fle a 0xFF800000#32 = true ↔ a = 0xFF800000#32) ∧
    (feq a 0xFF800000#32 = true ↔ a = 0xFF800000#32) ∧ (feq 0xFF800000#32 a = true ↔ a = 0xFF800000#32) ∧
    (fne a 0xFF800000#32 = true ↔ a ≠ 0xFF800000#32) ∧ (fne 0xFF800000#32 a = true ↔ a ≠ 0xFF800000#32) := by
  have hinf : isNaN 0xFF800000#32 = false := by decide
  have hkey : key 0xFF800000#32 = -magInf := by decide
  obtain ⟨hbottom, _⟩ := key_bounds ha
  rw [← Bool.not_eq_true (flt a _), flt_iff_key ha hinf, flt_iff_key hinf ha, fle_iff_key ha hinf,
    fle_iff_key hinf ha, feq_iff_key ha hinf, feq_iff_key hinf ha, fne_iff_key ha hinf, fne_iff_key hinf ha,
    Ne, eq_negInf_iff, hkey]
  omega

end Ordered

/-- Settles O46: every comparison is one of the operands' places in the order of values. -/
theorem comparisonsFollowTheValues : Obligations.ComparisonsFollowTheValues :=
  ⟨fun v => ⟨isNaN_iff_fields v, isFinite_iff_fields v⟩, fun _ _ => comparisons_of_unordered,
    fun _ _ => comparisons_of_finite, fun _ => comparisons_posInf, fun _ => comparisons_negInf, by decide⟩

/-! ### Powers of two -/

theorem isSmallInt_iff {x : F32} : isSmallInt x = true ↔
    isFinite x = true ∧ value x % 2 ^ 149 = 0 ∧ -126 ≤ value x / 2 ^ 149 ∧ value x / 2 ^ 149 ≤ 127 := by
  simp [isSmallInt, and_assoc]

/-- 2^n is finite over the exponents of T3, and its value is 2^n. -/
theorem powTwo_spec {n : Int} (hlow : -126 ≤ n) (hhigh : n ≤ 127) :
    isFinite (powTwo n) = true ∧ value (powTwo n) = 2 ^ (149 + n).toNat := by
  obtain ⟨k, rfl⟩ : ∃ k : Nat, n = k - 126 := ⟨(n + 126).toNat, by omega⟩
  have hfield : ((k : Int) - 126 + 127).toNat * 2 ^ 23 = k * 2 ^ 23 + 2 ^ 23 := by omega
  have hexp : (149 + ((k : Int) - 126)).toNat = 23 + k := by omega
  have hfin : k * 2 ^ 23 + 2 ^ 23 < magInf := by unfold magInf; omega
  rw [powTwo, hfield, hexp]
  refine ⟨isFinite_withSign _ _ hfin, ?_⟩
  rw [value, sgn_withSign _ _ hfin.le, mag_withSign _ _ hfin.le, units_exponent_add (by decide) (fun _ => le_refl _),
    ← Nat.pow_add]
  simp

/-! ### Quiet NaNs -/

/-- `x` is no NaN, or a quiet one: bit 22 is set (00_scope.md R20). -/
def QuietIfNaN (x : F32) : Prop := isNaN x = false ∨ x.getLsbD 22 = true

theorem quietIfNaN_withSign (s : Bool) {m : Nat} (h : m ≤ magInf) : QuietIfNaN (withSign s m) :=
  .inl (isNaN_withSign s m h)

theorem quietIfNaN_of_isInf {x : F32} (h : isInf x = true) : QuietIfNaN x := .inl (isNaN_false_of_inf h)

theorem quietIfNaN_nanOf (op : Config.FpOp) (a b : F32) : QuietIfNaN (nanOf op a b) := by
  have hbit : (0x7FC00000#32).getLsbD 22 = true := by decide
  exact .inr (by rw [nanOf, BitVec.getLsbD_or, hbit, Bool.or_true])

theorem quietIfNaN_addFinite (a b : F32) : QuietIfNaN (addFinite a b) := by
  unfold addFinite
  split
  · exact quietIfNaN_withSign _ (Nat.zero_le _)
  · exact quietIfNaN_withSign _ (roundMag_le_inf _ _)

theorem quietIfNaN_addOr {nan : F32} (h : QuietIfNaN nan) (a b : F32) : QuietIfNaN (addOr nan a b) := by
  unfold addOr
  split_ifs with _ ha _ hb
  · exact h
  · exact h
  · exact quietIfNaN_of_isInf ha
  · exact quietIfNaN_of_isInf hb
  · exact quietIfNaN_addFinite a b

theorem quietIfNaN_fmul (a b : F32) : QuietIfNaN (fmul a b) := by
  have hnan := quietIfNaN_nanOf .mul a b
  have hinf := quietIfNaN_withSign (sgn a != sgn b) (le_refl magInf)
  unfold fmul
  split_ifs
  · exact hnan
  · exact hnan
  · exact hinf
  · exact hnan
  · exact hinf
  · exact quietIfNaN_withSign _ (roundMag_le_inf _ _)

theorem quietIfNaN_fdiv (a b : F32) : QuietIfNaN (fdiv a b) := by
  have hnan := quietIfNaN_nanOf .div a b
  have hinf := quietIfNaN_withSign (sgn a != sgn b) (le_refl magInf)
  unfold fdiv
  split_ifs
  · exact hnan
  · exact hnan
  · exact hinf
  · exact quietIfNaN_withSign _ (Nat.zero_le _)
  · exact hnan
  · exact hinf
  · exact quietIfNaN_withSign _ (roundMag_le_inf _ _)

theorem quietIfNaN_quieted (x : F32) : QuietIfNaN (quieted x) := by
  have hbit : (0x00400000#32).getLsbD 22 = true := by decide
  unfold quieted
  split
  · exact .inr (by rw [BitVec.getLsbD_or, hbit, Bool.or_true])
  · rename_i h
    exact .inl (by simpa using h)

theorem quietIfNaN_keepIf (ok : F32 → Bool) {x other : F32} (hx : QuietIfNaN x) (hother : QuietIfNaN other) :
    QuietIfNaN (keepIf ok x other) := by
  unfold keepIf
  split
  · exact hx
  · exact hother

theorem quietIfNaN_f0 : QuietIfNaN f0 := .inl (by decide)
theorem quietIfNaN_f1 : QuietIfNaN f1 := .inl (by decide)

theorem quietIfNaN_powTwo {x : F32} (h : isSmallInt x = true) : QuietIfNaN (powTwo (value x / 2 ^ 149)) := by
  obtain ⟨_, _, hlow, hhigh⟩ := isSmallInt_iff.mp h
  exact .inl (isNaN_false_of_finite (powTwo_spec hlow hhigh).1)

theorem quietIfNaN_expF32 (x : F32) : QuietIfNaN (expF32 x) := by
  unfold expF32
  split_ifs
  · exact quietIfNaN_f1
  · exact quietIfNaN_keepIf _ (quietIfNaN_quieted _) quietIfNaN_f0
  · exact quietIfNaN_quieted _

theorem quietIfNaN_exp2F32 (x : F32) : QuietIfNaN (exp2F32 x) := by
  unfold exp2F32
  split_ifs with h
  · exact quietIfNaN_powTwo h
  · exact quietIfNaN_keepIf _ (quietIfNaN_quieted _) quietIfNaN_f1
  · exact quietIfNaN_quieted _

theorem quietIfNaN_sinF32 (x : F32) : QuietIfNaN (sinF32 x) := by
  unfold sinF32
  split_ifs
  · exact quietIfNaN_f0
  · exact quietIfNaN_keepIf _ (quietIfNaN_quieted _) quietIfNaN_f0
  · exact quietIfNaN_quieted _

theorem quietIfNaN_cosF32 (x : F32) : QuietIfNaN (cosF32 x) := by
  unfold cosF32
  split_ifs
  · exact quietIfNaN_f1
  · exact quietIfNaN_keepIf _ (quietIfNaN_quieted _) quietIfNaN_f1
  · exact quietIfNaN_quieted _

/-- Settles O47: each result is one of the model's quiet NaNs, a quieted raw value, or no NaN. -/
theorem naNResultsAreQuiet : Obligations.NaNResultsAreQuiet :=
  ⟨fun a b => ⟨quietIfNaN_addOr (quietIfNaN_nanOf .add a b) a b,
      quietIfNaN_addOr (quietIfNaN_nanOf .sub a b) a (fneg b), quietIfNaN_fmul a b, quietIfNaN_fdiv a b⟩,
    fun x => ⟨quietIfNaN_expF32 x, quietIfNaN_exp2F32 x, quietIfNaN_sinF32 x, quietIfNaN_cosF32 x⟩⟩

/-! ### The transcendental fields -/

/-- `keepIf` answers what it keeps: a value that passes the test, if the one in its place does. -/
theorem keepIf_passes {ok : F32 → Bool} {other : F32} (h : ok other = true) (x : F32) :
    ok (keepIf ok x other) = true := by
  unfold keepIf
  split
  · assumption
  · exact h

theorem within_iff {lo hi x : F32} : within lo hi x = true ↔ fle lo x = true ∧ fle x hi = true := by
  simp [within]

theorem isPosFinite_iff {x : F32} : isPosFinite x = true ↔ isFinite x = true ∧ flt f0 x = true := by
  simp [isPosFinite]

/-- A finite value is positive as a comparison where it is positive as a number. -/
theorem isPosFinite_of_value_pos {x : F32} (hfin : isFinite x = true) (hpos : 0 < value x) : isPosFinite x = true := by
  have hf0 : isFinite f0 = true := by decide
  have hv0 : value f0 = 0 := by decide
  exact isPosFinite_iff.mpr ⟨hfin, (comparisons_of_finite hf0 hfin).1.mpr (by rwa [hv0])⟩

/-- T3: the integers of [-126, 127] have exact powers. -/
theorem exp2F32_of_value {x : F32} {n : Int} (hfin : isFinite x = true) (hx : value x = n * 2 ^ 149) (hlow : -126 ≤ n)
    (hhigh : n ≤ 127) : exp2F32 x = powTwo n := by
  have hdiv : value x / 2 ^ 149 = n := by rw [hx, Int.mul_ediv_cancel _ (by positivity)]
  have hsmall : isSmallInt x = true :=
    isSmallInt_iff.mpr ⟨hfin, by rw [hx, Int.mul_emod_left], by rwa [hdiv], by rwa [hdiv]⟩
  rw [exp2F32, if_pos hsmall, hdiv]

/-- T4 for `exp_f32`. -/
theorem within_expF32 {x : F32} (h : fle x f0 = true) : within f0 f1 (expF32 x) = true := by
  unfold expF32
  split
  · decide
  · exact keepIf_passes (by decide) _

/-- T4 for `exp2_f32`. -/
theorem isPosFinite_exp2F32 {x : F32} (h : within fNeg9 f9 x = true) : isPosFinite (exp2F32 x) = true := by
  unfold exp2F32
  split
  · rename_i hsmall
    obtain ⟨_, _, hlow, hhigh⟩ := isSmallInt_iff.mp hsmall
    obtain ⟨hfin, hvalue⟩ := powTwo_spec hlow hhigh
    exact isPosFinite_of_value_pos hfin (by rw [hvalue]; positivity)
  · exact keepIf_passes (by decide) _

/-- T5 for `sin_f32`. -/
theorem within_sinF32 {x : F32} (h : isFinite x = true) : within fNeg1 f1 (sinF32 x) = true := by
  unfold sinF32
  split
  · decide
  · exact keepIf_passes (by decide) _

/-- T5 for `cos_f32`. -/
theorem within_cosF32 {x : F32} (h : isFinite x = true) : within fNeg1 f1 (cosF32 x) = true := by
  unfold cosF32
  split
  · decide
  · exact keepIf_passes (by decide) _

/-- T2. -/
theorem transcendentals_f0 : expF32 f0 = f1 ∧ exp2F32 f0 = f1 ∧ sinF32 f0 = f0 ∧ cosF32 f0 = f1 := by
  have hexp2 : exp2F32 f0 = powTwo 0 := exp2F32_of_value (by decide) (by decide) (by decide) (by decide)
  exact ⟨if_pos rfl, hexp2.trans (by decide), if_pos rfl, if_pos rfl⟩

/-- Settles O48, property by property. -/
theorem transcendentalFieldsMeetTheirProperties : Obligations.TranscendentalFieldsMeetTheirProperties := by
  refine ⟨transcendentals_f0, fun x n hfin hx hlow hhigh => ?_, fun x h => within_iff.mp (within_expF32 h),
    fun x hlow hhigh => isPosFinite_iff.mp (isPosFinite_exp2F32 (within_iff.mpr ⟨hlow, hhigh⟩)),
    fun x h => ⟨within_iff.mp (within_sinF32 h), within_iff.mp (within_cosF32 h)⟩⟩
  rw [exp2F32_of_value hfin hx hlow hhigh]
  exact powTwo_spec hlow hhigh

/-! ### Exactness of the fractional part -/

/-- The part of a representable magnitude below a power of two is representable. -/
theorem exists_units_mod (m k : Nat) : ∃ n, units n = units m % 2 ^ k := by
  rw [units_eq]
  rcases Nat.le_total k (lastPlace m) with h | h
  · exact ⟨0, (Nat.mod_eq_zero_of_dvd (Dvd.dvd.mul_left (pow_dvd_pow 2 h) _)).symm⟩
  · obtain ⟨d, rfl⟩ := Nat.exists_eq_add_of_le h
    rw [Nat.mul_comm, Nat.pow_add, Nat.mul_mod_mul_left, Nat.mul_comm]
    exact exists_units _ _ ((Nat.mod_le _ _).trans_lt (signif_lt m))

/-- The rest of it is representable too. -/
theorem exists_units_floor (m k : Nat) : ∃ n, units n = units m / 2 ^ k * 2 ^ k := by
  rcases Nat.le_total k (lastPlace m) with h | h
  · have hdvd : 2 ^ k ∣ units m := units_eq m ▸ Dvd.dvd.mul_left (pow_dvd_pow 2 h) _
    exact ⟨m, (Nat.div_mul_cancel hdvd).symm⟩
  · have hle : units m ≤ signif m * 2 ^ k :=
      units_eq m ▸ Nat.mul_le_mul_left _ (Nat.pow_le_pow_right (by decide) h)
    exact exists_units _ _ ((Nat.div_le_of_le_mul (by rwa [Nat.mul_comm])).trans_lt (signif_lt m))

theorem le_of_units_le {m n : Nat} (h : units m ≤ units n) : m ≤ n := by
  by_contra hc
  exact absurd (units_lt_units (Nat.lt_of_not_le hc)) (by omega)

/-- A representable difference is answered exactly. -/
theorem fsub_exact {a b : F32} {n : Nat} (ha : isFinite a = true) (hb : isFinite b = true) (hn : n < magInf)
    (h : value a - value b = units n) : isFinite (fsub a b) = true ∧ value (fsub a b) = units n := by
  rw [sub_eq_add_neg, ← value_fneg] at h
  have hround : roundMag (units n) 1 = n := by simpa using roundMag_exact (den := 1) (by decide) hn.le
  obtain ⟨s, hs, hresult⟩ : ∃ s, (s = true → n = 0) ∧ fsub a b = withSign s n := by
    rw [fsub_of_finite ha hb, addFinite, h, Int.natAbs_natCast, hround]
    by_cases h0 : n = 0
    · exact ⟨_, fun _ => h0, by rw [if_pos (by rw [h0]; rfl), h0]⟩
    · have hne : (units n : Int) ≠ 0 := by simpa using units_eq_zero.not.mpr h0
      exact ⟨_, by simp, if_neg hne⟩
  rw [hresult, value, sgn_withSign _ _ hn.le, mag_withSign _ _ hn.le]
  refine ⟨isFinite_withSign _ _ hn, ?_⟩
  split
  · rw [hs ‹_›]; rfl
  · rfl

/-- The floor of a value that is not negative is exact (00_scope.md R17). -/
theorem ffloor_spec {v : F32} (hfin : isFinite v = true) (hs : sgn v = false) :
    isFinite (ffloor v) = true ∧ value (ffloor v) = value v / 2 ^ 149 * 2 ^ 149 := by
  have hv : value v = units (mag v) := by simp [value, hs]
  unfold ffloor
  split
  · rename_i hzero
    exact ⟨hfin, by rw [(value_eq_zero_iff v).mpr hzero]; rfl⟩
  · obtain ⟨n, hn⟩ := exists_units_floor (mag v) 149
    have hfloor : value v / 2 ^ 149 * 2 ^ 149 = (units n : Int) := by rw [hv, hn]; norm_cast
    have hlt : n < magInf := (le_of_units_le (hn ▸ Nat.div_mul_le_self _ _)).trans_lt (isFinite_of_mag hfin)
    have hround : roundMag (units n) 1 = n := by simpa using roundMag_exact (den := 1) (by decide) hlt.le
    rw [hfloor, Int.natAbs_natCast, hround, hs]
    exact ⟨isFinite_withSign _ _ hlt, by simp [value, sgn_withSign _ _ hlt.le, mag_withSign _ _ hlt.le]⟩

/-- Settles O37: both the floor and the rest of a representable value are representable. -/
theorem fracIsExact : Obligations.FracIsExact := by
  refine ⟨fun v hfin hs => ?_, by decide⟩
  have hv : value v = units (mag v) := by simp [value, hs]
  obtain ⟨hfloorFin, hfloor⟩ := ffloor_spec hfin hs
  obtain ⟨n, hn⟩ := exists_units_mod (mag v) 149
  have hlt : n < magInf := (le_of_units_le (hn ▸ Nat.mod_le _ _)).trans_lt (isFinite_of_mag hfin)
  have hrest : value v % 2 ^ 149 = units n := by rw [hv, hn]; norm_cast
  have hdiff : value v - value (ffloor v) = units n := by
    rw [← hrest, hfloor]
    have := Int.emod_add_ediv_mul (value v) (2 ^ 149)
    omega
  rw [hrest, frac, if_pos hfin]
  exact fsub_exact hfin hfloorFin hlt hdiff

/-! ### Rates and constants -/

/-- Settles O49: a rate is kept where it is finite and positive, and only there. -/
theorem coercedRateIsValid : Obligations.CoercedRateIsValid := by
  refine ⟨fun fs hfin hpos => by simp [coerceFs, hfin, hpos], fun fs h => ?_, fun fs => ?_⟩
  · rcases coerceFs_cases fs with ⟨hfin, hpos, _⟩ | hdefault
    · rw [flt_iff] at hpos
      rcases h with hle | hnan | hinf
      · rw [fle_iff] at hle; omega
      · simp [isNaN_false_of_finite hfin] at hnan
      · simp [isInf_false_of_finite hfin] at hinf
    · exact hdefault
  · rcases coerceFs_cases fs with ⟨hfin, hpos, hkeep⟩ | hdefault
    · rw [hkeep]; exact ⟨hfin, hpos⟩
    · rw [hdefault]; decide

/-- Settles O50, by evaluating each row: the constants are literals and every rounding is a closed computation. -/
theorem constantsAreTheNearestValues : Obligations.ConstantsAreTheNearestValues :=
  ⟨rfl, by decide +kernel, rfl⟩

end Sys2Proof.Machine
end

section
/-! PROOFS. The order facts the invariants rest on: values that are not negative, the phase of the oscillator, values in
their ranges, valid rates. -/

namespace Sys2Proof.Machine

/-! ### The phase of the oscillator -/

theorem key_withSign (sign : Bool) {m : Nat} (h : m ≤ magInf) :
    key (withSign sign m) = if sign then -(m : Int) else m := by
  rw [key, sgn_withSign _ _ h, mag_withSign _ _ h]

/-- Not negative, -0.0 counting as zero. -/
theorem fle_f0_iff {x : F32} : fle f0 x = true ↔ isNaN x = false ∧ 0 ≤ key x := by
  have hnan : isNaN f0 = false := by decide
  have hkey : key f0 = 0 := by decide
  simp [fle_iff, hnan, hkey]

theorem fle_f0_withSign_false {m : Nat} (h : m ≤ magInf) : fle f0 (withSign false m) = true :=
  fle_f0_iff.mpr ⟨isNaN_withSign _ _ h, by simp [key_withSign _ h]⟩

theorem sgn_false_of_key_pos {x : F32} (h : 0 < key x) : sgn x = false := by
  cases hs : sgn x
  · rfl
  · simp only [key, hs, if_true] at h; omega

theorem sgn_false_of_isPosFinite {x : F32} (h : isPosFinite x = true) : sgn x = false := by
  obtain ⟨_, _, hlt⟩ := flt_iff.mp (isPosFinite_iff.mp h).2
  exact sgn_false_of_key_pos hlt

/-- The quotient of positive values is not negative, +inf included (42_oscillator.md R72). -/
theorem fle_f0_fdiv {a b : F32} (ha : isPosFinite a = true) (hb : isPosFinite b = true) : fle f0 (fdiv a b) = true := by
  have hb0 : isZero b = false := by
    obtain ⟨_, _, hlt⟩ := flt_iff.mp (isPosFinite_iff.mp hb).2
    rw [Bool.eq_false_iff, Ne, ← value_eq_zero_iff, ← (by decide : value f0 = 0), ← key_eq_iff_value_eq]
    omega
  rw [fdiv_of_finite (isPosFinite_iff.mp ha).1 (isPosFinite_iff.mp hb).1 hb0, sgn_false_of_isPosFinite ha,
    sgn_false_of_isPosFinite hb]
  exact fle_f0_withSign_false (roundMag_le_inf _ _)

theorem isFinite_or_isInf {x : F32} (h : isNaN x = false) : isFinite x = true ∨ isInf x = true := by
  simp only [isNaN, decide_eq_false_iff_not] at h
  simp only [isFinite, isInf, decide_eq_true_iff]
  omega

theorem sgn_false_of_isInf {x : F32} (hinf : isInf x = true) (h : fle f0 x = true) : sgn x = false := by
  have hkey := (fle_f0_iff.mp h).2
  have hpos : 0 < magInf := by decide
  cases hs : sgn x
  · rfl
  · simp only [key, hs, if_true, mag_of_isInf hinf] at hkey; omega

/-- The sum of values that are not negative is not negative. -/
theorem fle_f0_fadd {a b : F32} (ha : fle f0 a = true) (hb : fle f0 b = true) : fle f0 (fadd a b) = true := by
  obtain ⟨hna, hka⟩ := fle_f0_iff.mp ha
  obtain ⟨hnb, hkb⟩ := fle_f0_iff.mp hb
  rcases isFinite_or_isInf hna with hfa | hia
  · rcases isFinite_or_isInf hnb with hfb | hib
    · have hva : 0 ≤ value a := (key_le_iff_value_le f0 a).mp hka
      have hvb : 0 ≤ value b := (key_le_iff_value_le f0 b).mp hkb
      rw [fadd_of_finite hfa hfb, addFinite]
      split
      · exact fle_f0_iff.mpr ⟨isNaN_withSign _ _ (Nat.zero_le _), by simp [key_withSign _ (Nat.zero_le _)]⟩
      · rw [decide_eq_false (by omega)]
        exact fle_f0_withSign_false (roundMag_le_inf _ _)
    · have hsum : fadd a b = b := by simp [fadd, addOr, hna, hnb, isInf_false_of_finite hfa, hib]
      rwa [hsum]
  · have hsum : fadd a b = a := by
      simp only [fadd, addOr, hna, hnb, hia, sgn_false_of_isInf hia ha, Bool.or_self, Bool.false_eq_true, if_false,
        if_true, ite_eq_right_iff, Bool.and_eq_true, bne_iff_ne, and_imp]
      exact fun hib hs => absurd (sgn_false_of_isInf hib hb).symm hs
    rwa [hsum]

/-- The fractional part of a value that is not negative is in [0.0, 1.0), +inf included (00_scope.md R17). -/
theorem frac_mem_unit {v : F32} (h : fle f0 v = true) : fle f0 (frac v) = true ∧ flt (frac v) f1 = true := by
  by_cases hfin : isFinite v = true
  · cases hs : sgn v
    · obtain ⟨hfracFin, hfrac⟩ := fracIsExact.1 v hfin hs
      rw [(comparisons_of_finite (by decide) hfracFin).2.1, (comparisons_of_finite hfracFin (by decide)).1, hfrac]
      exact ⟨Int.emod_nonneg _ (by decide), Int.emod_lt_of_pos _ (by decide)⟩
    · have hkey := (fle_f0_iff.mp h).2
      simp only [key, hs, if_true] at hkey
      have hzero : v = 0x80000000#32 := ext_sgn_mag (by rw [hs]; rfl) (by rw [show mag v = 0 by omega]; rfl)
      rw [hzero]; decide
  · rw [frac, if_neg hfin]; decide

/-- A tick keeps the phase in [0.0, 1.0) (I4 of 10_state.md R35). -/
theorem oscNextPhase_mem_unit {osc : Oscillator} (hphase : fle f0 osc.phase = true) (hinc : fle f0 osc.inc = true) :
    fle f0 (oscNextPhase osc) = true ∧ flt (oscNextPhase osc) f1 = true :=
  frac_mem_unit (fle_f0_fadd hphase hinc)

/-! ### Values in their ranges -/

theorem isNaN_false_of_within {lo hi x : F32} (h : within lo hi x = true) : isNaN x = false :=
  (fle_iff.mp (within_iff.mp h).1).2.1

theorem clamp_of_within {lo hi x : F32} (h : within lo hi x = true) : clamp x lo hi = x :=
  clamp_of_bounds (within_iff.mp h).1 (within_iff.mp h).2

theorem within_clamp {lo hi x : F32} (hx : isNaN x = false) (h : fle lo hi = true) :
    within lo hi (clamp x lo hi) = true :=
  within_iff.mpr (clamp_bounds hx h)

/-- The ends of the range of `P[3]` are positive and finite, so every rate in it is. -/
theorem isPosFinite_of_within_rate {x : F32} (h : within Config.rateMin Config.rateMax x = true) :
    isPosFinite x = true := by
  obtain ⟨hlow, hhigh⟩ := within_iff.mp h
  obtain ⟨_, hnan, hlow⟩ := fle_iff.mp hlow
  obtain ⟨_, _, hhigh⟩ := fle_iff.mp hhigh
  have hpos : 0 < key x := lt_of_lt_of_le (by decide) hlow
  have hmag : key x = mag x := by simp [key, sgn_false_of_key_pos hpos]
  have hmax : key Config.rateMax < magInf := by decide
  have hfin : isFinite x = true := (isFinite_iff_mag x).mpr (by omega)
  exact isPosFinite_iff.mpr ⟨hfin, flt_iff.mpr ⟨by decide, hnan, hpos⟩⟩

theorem isPosFinite_coerceFs (fs : F32) : isPosFinite (coerceFs fs) = true :=
  isPosFinite_iff.mpr (coercedRateIsValid.2.2 fs)

/-- A valid rate is kept, so coercing twice is coercing once. -/
theorem coerceFs_of_isPosFinite {fs : F32} (h : isPosFinite fs = true) : coerceFs fs = fs :=
  coercedRateIsValid.1 fs (isPosFinite_iff.mp h).1 (isPosFinite_iff.mp h).2

end Sys2Proof.Machine
end

section
/-! PROOFS. The invariants of 10_state.md R30 to R35 sub-block by sub-block, and that reset meets and every step keeps
them. -/

namespace Sys2Proof.Machine

/-! ### The invariants, one predicate per sub-block -/

/-- The smoother agrees with the engine's rate (10_state.md R32, I1). -/
structure Smoother.Fits (fs : F32) (sm : Smoother) : Prop where
  fs_eq : sm.fs = fs
  t_eq : sm.t = Config.smoothTimeMs
  coef_eq : (sm.a, sm.b) = smCoef sm.t sm.fs

/-- The oscillator agrees with the engine's rate, `P[3]` and `P[2]`, its phase in [0.0, 1.0) (10_state.md R33, I1, I4,
I5). -/
structure Oscillator.Fits (fs rate waveform : F32) (osc : Oscillator) : Prop where
  fs_eq : osc.fs = fs
  rate_eq : osc.rate = rate
  wave_eq : osc.wave = waveOf waveform
  inc_eq : osc.inc = oscInc osc.rate osc.fs
  phase_mem : fle f0 osc.phase = true ∧ flt osc.phase f1 = true

/-- A filter agrees with the engine's rate and `P[1]`, its cutoff in range (10_state.md R34, I1, I6). -/
structure Filter.Fits (fs res : F32) (f : Filter) : Prop where
  fs_eq : f.fs = fs
  res_eq : f.res = res
  cut_mem : within Config.cutMin Config.cutMax f.cut = true
  coef_eq : f.coef = fltCoef f.cut f.res f.fs

/-- `State.Inv`, the facts of each sub-block together. That the filters' resonances and coefficients agree (I2, I3)
follows from the rest. -/
theorem State.inv_iff (s : State) :
    s.Inv ↔ isPosFinite s.fs = true ∧ s.params.InRange ∧ s.sm.Fits s.fs ∧
      s.osc.Fits s.fs s.params.lfoFrequency s.params.lfoWaveform ∧ s.fl.Fits s.fs s.params.resonance ∧
      s.fr.Fits s.fs s.params.resonance ∧ s.fl.cut = s.fr.cut := by
  constructor
  · intro h
    exact ⟨h.fs_valid, h.params_in_range, ⟨h.sm_fs, h.sm_t, h.sm_coef⟩,
      ⟨h.osc_fs, h.rate_is_param, h.wave_is_param, h.osc_inc, h.phase_in_range⟩,
      ⟨h.fl_fs, h.res_is_param, h.fl_cut_in_range, h.fl_coef⟩,
      ⟨h.fr_fs, h.same_res.symm.trans h.res_is_param, h.same_cut ▸ h.fl_cut_in_range, h.fr_coef⟩, h.same_cut⟩
  · rintro ⟨hfs, hparams, hsm, hosc, hfl, hfr, hcut⟩
    have hres : s.fl.res = s.fr.res := hfl.res_eq.trans hfr.res_eq.symm
    exact
      { fs_valid := hfs, params_in_range := hparams, sm_t := hsm.t_eq, sm_coef := hsm.coef_eq
        osc_inc := hosc.inc_eq, fl_coef := hfl.coef_eq, fr_coef := hfr.coef_eq, fl_cut_in_range := hfl.cut_mem
        sm_fs := hsm.fs_eq, osc_fs := hosc.fs_eq, fl_fs := hfl.fs_eq, fr_fs := hfr.fs_eq
        same_cut := hcut, same_res := hres
        same_coef := by rw [hfl.coef_eq, hfr.coef_eq, hcut, hres, hfl.fs_eq, hfr.fs_eq]
        phase_in_range := hosc.phase_mem, rate_is_param := hosc.rate_eq, wave_is_param := hosc.wave_eq
        res_is_param := hfl.res_eq }

/-- The invariants speak of the rate, the parameters and the sub-blocks only. -/
theorem State.Inv.congr {s t : State} (h : s.Inv) (hfs : t.fs = s.fs) (hparams : t.params = s.params)
    (hsm : t.sm = s.sm) (hosc : t.osc = s.osc) (hfl : t.fl = s.fl) (hfr : t.fr = s.fr) : t.Inv := by
  rw [State.inv_iff] at h ⊢
  rwa [hfs, hparams, hsm, hosc, hfl, hfr]

/-! ### What the micro-operations keep -/

section SubBlocks
variable {fs rate waveform res : F32} {sm : Smoother} {osc : Oscillator} {f : Filter}

/-- SM_SETFS with a rate that differs (41_smoother.md R66). -/
theorem Smoother.Fits.smSetFs {v : F32} (h : sm.Fits fs) (hne : fne (coerceFs v) fs = true) :
    (smSetFs v sm).Fits (coerceFs v) := by
  rw [Machine.smSetFs, if_pos (by rwa [h.fs_eq])]
  exact ⟨rfl, h.t_eq, rfl⟩

theorem Smoother.Fits.smProcess (h : sm.Fits fs) (target : F32) : (smProcess target sm).Fits fs :=
  ⟨h.fs_eq, h.t_eq, h.coef_eq⟩

theorem Oscillator.Fits.oscTick (h : osc.Fits fs rate waveform) (hfs : isPosFinite fs = true)
    (hrate : within Config.rateMin Config.rateMax rate = true) : (oscTick osc).Fits fs rate waveform := by
  have hinc : fle f0 osc.inc = true := by
    rw [h.inc_eq, h.rate_eq, h.fs_eq]
    exact fle_f0_fdiv (isPosFinite_of_within_rate hrate) hfs
  exact ⟨h.fs_eq, h.rate_eq, h.wave_eq, h.inc_eq, oscNextPhase_mem_unit h.phase_mem.1 hinc⟩

theorem Oscillator.Fits.oscSetRate {v : F32} (h : osc.Fits fs rate waveform) (hv : isNaN v = false) :
    (oscSetRate (clamp v Config.rateMin Config.rateMax) osc).Fits fs (clamp v Config.rateMin Config.rateMax)
      waveform := by
  rw [oscSetRate_clamp osc hv]
  exact ⟨h.fs_eq, rfl, h.wave_eq, rfl, h.phase_mem⟩

theorem Oscillator.Fits.oscSetWave {v : F32} (h : osc.Fits fs rate waveform) (hv : isNaN v = false) :
    (oscSetWave (clamp v Config.waveMin Config.waveMax) osc).Fits fs rate
      (clamp v Config.waveMin Config.waveMax) := by
  rw [oscSetWave_clamp osc hv]
  exact ⟨h.fs_eq, h.rate_eq, rfl, h.inc_eq, h.phase_mem⟩

theorem Oscillator.Fits.oscSetFs (h : osc.Fits fs rate waveform) (v : F32) :
    (oscSetFs v osc).Fits (coerceFs v) rate waveform :=
  ⟨rfl, h.rate_eq, h.wave_eq, rfl, h.phase_mem⟩

/-- FLT_SETCUTOFF with any value, a NaN among them (43_filter.md R84). -/
theorem Filter.Fits.fltSetCutoff (h : f.Fits fs res) (v : F32) : (fltSetCutoff v f).Fits fs res := by
  unfold Machine.fltSetCutoff
  split
  · exact h
  · exact ⟨h.fs_eq, h.res_eq, within_clamp (by simpa using ‹¬isNaN v = true›) (by decide), rfl⟩

theorem Filter.Fits.fltSetRes {v : F32} (h : f.Fits fs res) (hv : isNaN v = false) :
    (fltSetRes (clamp v Config.resMin Config.resMax) f).Fits fs (clamp v Config.resMin Config.resMax) := by
  rw [fltSetRes_clamp f hv]
  exact ⟨h.fs_eq, rfl, h.cut_mem, rfl⟩

theorem Filter.Fits.fltSetFs (h : f.Fits fs res) (v : F32) : (fltSetFs v f).Fits (coerceFs v) res :=
  ⟨rfl, h.res_eq, h.cut_mem, rfl⟩

theorem Filter.Fits.fltProcess (h : f.Fits fs res) (x : F32) : (fltProcess f x).Fits fs res :=
  ⟨h.fs_eq, h.res_eq, h.cut_mem, h.coef_eq⟩

theorem Filter.fresh_fits (fs : F32) : (Filter.fresh fs).Fits fs Config.resDefault :=
  ⟨rfl, rfl, show within Config.cutMin Config.cutMax Config.cutDefault = true by decide, rfl⟩

/-- Filters of one cutoff have one cutoff after the same value is set in both. -/
theorem fltSetCutoff_cut_congr {g : Filter} (h : f.cut = g.cut) (v : F32) :
    (fltSetCutoff v f).cut = (fltSetCutoff v g).cut := by
  unfold fltSetCutoff
  split
  · exact h
  · rfl

end SubBlocks

/-! ### What the commands keep -/

/-- What SET_PARAM 0 makes of the registers that the invariants speak of. -/
theorem setCutoff_writes (v : F32) (s : State) :
    (setCutoff v s).fs = s.fs ∧
    (setCutoff v s).params = { s.params with cutoff := clamp v Config.cutMin Config.cutMax } ∧
    (setCutoff v s).sm = s.sm ∧ (setCutoff v s).osc = s.osc ∧
    (setCutoff v s).fl = fltSetCutoff (clamp v Config.cutMin Config.cutMax) s.fl ∧
    (setCutoff v s).fr = fltSetCutoff (clamp v Config.cutMin Config.cutMax) s.fr := by
  simp [setCutoff]

/-- What SET_PARAM 1 makes of the registers that the invariants speak of. -/
theorem setResonance_writes (v : F32) (s : State) :
    (setResonance v s).fs = s.fs ∧
    (setResonance v s).params = { s.params with resonance := clamp v Config.resMin Config.resMax } ∧
    (setResonance v s).sm = s.sm ∧ (setResonance v s).osc = s.osc ∧
    (setResonance v s).fl = fltSetRes (clamp v Config.resMin Config.resMax) s.fl ∧
    (setResonance v s).fr = fltSetRes (clamp v Config.resMin Config.resMax) s.fr := by
  simp [setResonance]

theorem setCutoff_inv {s : State} {v : F32} (h : s.Inv) (hv : isNaN v = false) : (setCutoff v s).Inv := by
  obtain ⟨efs, eparams, esm, eosc, efl, efr⟩ := setCutoff_writes v s
  rw [State.inv_iff] at h ⊢
  rw [efs, eparams, esm, eosc, efl, efr]
  obtain ⟨hfs, hparams, hsm, hosc, hfl, hfr, hcut⟩ := h
  exact ⟨hfs, { hparams with cutoff := within_clamp hv (by decide) }, hsm, hosc, hfl.fltSetCutoff _,
    hfr.fltSetCutoff _, fltSetCutoff_cut_congr hcut _⟩

theorem setResonance_inv {s : State} {v : F32} (h : s.Inv) (hv : isNaN v = false) : (setResonance v s).Inv := by
  obtain ⟨efs, eparams, esm, eosc, efl, efr⟩ := setResonance_writes v s
  rw [State.inv_iff] at h ⊢
  rw [efs, eparams, esm, eosc, efl, efr]
  obtain ⟨hfs, hparams, hsm, hosc, hfl, hfr, hcut⟩ := h
  obtain ⟨-, hflCut, -⟩ := fltSetRes_keeps (clamp v Config.resMin Config.resMax) s.fl
  obtain ⟨-, hfrCut, -⟩ := fltSetRes_keeps (clamp v Config.resMin Config.resMax) s.fr
  exact ⟨hfs, { hparams with resonance := within_clamp hv (by decide) }, hsm, hosc, hfl.fltSetRes hv,
    hfr.fltSetRes hv, hflCut.trans (hcut.trans hfrCut.symm)⟩

theorem setWaveform_inv {s : State} {v : F32} (h : s.Inv) (hv : isNaN v = false) : (setWaveform v s).Inv := by
  rw [State.inv_iff] at h ⊢
  obtain ⟨hfs, hparams, hsm, hosc, hfl, hfr, hcut⟩ := h
  exact ⟨hfs, { hparams with lfoWaveform := within_clamp hv (by decide) }, hsm, hosc.oscSetWave hv, hfl, hfr, hcut⟩

theorem setLfoRate_inv {s : State} {v : F32} (h : s.Inv) (hv : isNaN v = false) : (setLfoRate v s).Inv := by
  rw [State.inv_iff] at h ⊢
  obtain ⟨hfs, hparams, hsm, hosc, hfl, hfr, hcut⟩ := h
  exact ⟨hfs, { hparams with lfoFrequency := within_clamp hv (by decide) }, hsm, hosc.oscSetRate hv, hfl, hfr, hcut⟩

theorem setModDepth_inv {s : State} {v : F32} (h : s.Inv) (hv : isNaN v = false) : (setModDepth v s).Inv := by
  rw [State.inv_iff] at h ⊢
  obtain ⟨hfs, hparams, hrest⟩ := h
  exact ⟨hfs, { hparams with lfoModDepth := within_clamp hv (by decide) }, hrest⟩

/-- SET_PARAM keeps the invariants, whatever its index and value (44_engine_commands.md R96). -/
theorem setParam_inv {s : State} (h : s.Inv) (i : Nat) (v : F32) : (setParam i v s).Inv := by
  rcases setParam_cases i v s with ⟨_, e⟩ | ⟨hv, ⟨_, e⟩ | ⟨_, e⟩ | ⟨_, e⟩ | ⟨_, e⟩ | ⟨_, e⟩⟩ <;> rw [e]
  · exact h
  · exact setCutoff_inv h hv
  · exact setResonance_inv h hv
  · exact setWaveform_inv h hv
  · exact setLfoRate_inv h hv
  · exact setModDepth_inv h hv

theorem loadDefaults_inv {s : State} (h : s.Inv) : (loadDefaults s).Inv :=
  setParam_inv (setParam_inv (setParam_inv (setParam_inv (setParam_inv h 0 _) 1 _) 2 _) 3 _) 4 _

theorem defaults_inRange :
    ParamFile.InRange ⟨Config.cutDefault, Config.resDefault, Config.waveDefault, Config.rateDefault,
      Config.depthDefault⟩ := by
  constructor <;> decide

/-- INIT's construction meets the invariants at any valid rate, from any state (44_engine_commands.md R93). -/
theorem construct_inv {fs : F32} (hfs : isPosFinite fs = true) (s : State) : (construct fs s).Inv := by
  have phase_f0 : fle f0 f0 = true ∧ flt f0 f1 = true := by decide
  rw [State.inv_iff]
  exact ⟨hfs, defaults_inRange, ⟨rfl, rfl, rfl⟩, ⟨rfl, rfl, waveOf_waveDefault.symm, rfl, phase_f0⟩,
    Filter.fresh_fits fs, Filter.fresh_fits fs, rfl⟩

/-- SET_FS's propagation of a valid rate that differs from FS (44_engine_commands.md R94). -/
theorem propagateFs_inv {s : State} {fs : F32} (h : s.Inv) (hvalid : isPosFinite fs = true)
    (hne : feq fs s.fs = false) : (propagateFs fs s).Inv := by
  obtain ⟨-, -, -, -, -, hfs, hparams, hsm, hosc, hfl, hfr, -, -⟩ := propagateFs_frame fs s
  have hcoerce : coerceFs fs = fs := coerceFs_of_isPosFinite hvalid
  rw [State.inv_iff] at h ⊢
  rw [hfs, hparams, hsm, hosc, hfl, hfr]
  obtain ⟨-, hrange, smFits, oscFits, flFits, frFits, hcut⟩ := h
  have hrate := oscFits.oscSetFs fs |>.oscSetRate (isNaN_false_of_within hrange.lfoFrequency)
  rw [clamp_of_within hrange.lfoFrequency, hcoerce] at hrate
  refine ⟨hvalid, hrange, ?_, hrate, ?_, ?_, hcut⟩
  · simpa only [hcoerce] using smFits.smSetFs (v := fs) (by rw [hcoerce, fne, hne]; rfl)
  · simpa only [hcoerce] using flFits.fltSetFs fs
  · simpa only [hcoerce] using frFits.fltSetFs fs

/-- FRAME's steps a to c (44_engine_commands.md R98). -/
theorem frameControl_inv {s : State} (h : s.Inv) : (frameControl s).Inv := by
  obtain ⟨-, -, -, -, -, hfs, hparams, hosc, -, -⟩ := frameControl_frame s
  rw [State.inv_iff] at h ⊢
  rw [hfs, hparams, hosc]
  obtain ⟨hvalid, hrange, smFits, oscFits, flFits, frFits, hcut⟩ := h
  have hticked := oscFits.oscTick hvalid hrange.lfoFrequency
  rcases frameControl_filters s with ⟨-, hsm, hfl, hfr⟩ | ⟨-, hsm, m, -, hfl, hfr⟩ <;> rw [hsm, hfl, hfr]
  · exact ⟨hvalid, hrange, smFits, hticked, flFits, frFits, hcut⟩
  · exact ⟨hvalid, hrange, smFits.smProcess _, hticked, flFits.fltSetCutoff m, frFits.fltSetCutoff m,
      fltSetCutoff_cut_congr hcut m⟩

/-- FRAME's step d. -/
theorem frameFilter_inv {s : State} (h : s.Inv) : (frameFilter s).Inv := by
  obtain ⟨-, -, -, -, -, hfs, hparams, hsm, hosc, hfl, hfr, -, -⟩ := frameFilter_frame s
  rw [State.inv_iff] at h ⊢
  rw [hfs, hparams, hsm, hosc, hfl, hfr]
  obtain ⟨hvalid, hrange, smFits, oscFits, flFits, frFits, hcut⟩ := h
  exact ⟨hvalid, hrange, smFits, oscFits, flFits.fltProcess _, frFits.fltProcess _, hcut⟩

/-- Every command keeps the invariants. -/
theorem exec_inv {s t : State} {i : Instr} (h : s.Inv) (he : exec i s = .next t) : t.Inv := by
  cases i with
  | nop => cases he; exact h
  | init => cases he; exact loadDefaults_inv (construct_inv (isPosFinite_coerceFs _) s)
  | setFs =>
    rw [exec_setFs] at he
    split at he <;> cases he
    · exact h
    · exact propagateFs_inv h (isPosFinite_coerceFs _) (by simpa using ‹¬feq _ _ = true›)
  | loadDefaults => cases he; exact loadDefaults_inv h
  | setParam idx => cases he; exact setParam_inv h _ _
  | getParam idx => cases he; exact h.congr rfl rfl rfl rfl rfl rfl
  | frame => cases he; exact frameFilter_inv (frameControl_inv h)

/-- A write of a register other than CMD keeps the invariants. -/
theorem memWrite_inv {s : State} (h : s.Inv) (off : Offset) (w : Word) : (memWrite off w s).Inv := by
  rcases memWrite_cases off w s with e | e | e | ⟨_, e⟩ <;> rw [e]
  · exact h
  all_goals exact h.congr rfl rfl rfl rfl rfl rfl

/-- Settles O18: the reset state is a construction at the default rate. -/
theorem resetMeetsTheInvariants : Obligations.ResetMeetsTheInvariants :=
  show (construct Config.fsDefault State.reset).Inv from construct_inv (by decide) _

/-- Settles O19, over everything a step can do. -/
theorem everyStepKeepsTheInvariants : Obligations.EveryStepKeepsTheInvariants := by
  intro s s' h hstep
  rcases step_cases hstep with ⟨-, rfl⟩ | ⟨e, rest, -, hserved⟩
  · exact h
  · have hqueue : (s.withPending rest).Inv := h.congr rfl rfl rfl rfl rfl rfl
    rcases hserved with ⟨off, -, -, rfl⟩ | ⟨off, w, -, -, -, rfl⟩ | ⟨off, w, i, -, -, -, -, he⟩ |
      ⟨off, w, c, -, -, -, -, rfl⟩ | ⟨-, rfl⟩
    · exact hqueue.congr rfl rfl rfl rfl rfl rfl
    · exact memWrite_inv hqueue off w
    · exact exec_inv hqueue he
    · exact hqueue.congr rfl rfl rfl rfl rfl rfl
    · exact State.Inv.congr resetMeetsTheInvariants rfl rfl rfl rfl rfl rfl

end Sys2Proof.Machine
end

section
/-! PROOFS. The operand registers, BADCMD and the reset values (10_state.md R27, R29, R38). -/

namespace Sys2Proof.Machine

/-! ### The operand registers -/

/-- No command writes OP0 or OP1 (10_state.md R27). -/
theorem exec_operands {i : Instr} {s t : State} (h : exec i s = .next t) : t.op0 = s.op0 ∧ t.op1 = s.op1 := by
  cases i with
  | nop => cases h; exact ⟨rfl, rfl⟩
  | init => cases h; exact ⟨(loadDefaults_frame _).op0, (loadDefaults_frame _).op1⟩
  | setFs =>
    rw [exec_setFs] at h
    split at h <;> cases h
    · exact ⟨rfl, rfl⟩
    · obtain ⟨hop0, hop1, -⟩ := propagateFs_frame (coerceFs s.op0) s
      exact ⟨hop0, hop1⟩
  | loadDefaults => cases h; exact ⟨(loadDefaults_frame s).op0, (loadDefaults_frame s).op1⟩
  | setParam idx => cases h; exact ⟨(setParam_frame _ _ s).op0, (setParam_frame _ _ s).op1⟩
  | getParam idx => cases h; exact ⟨rfl, rfl⟩
  | frame =>
    cases h
    obtain ⟨hop0, hop1, -⟩ := frameControl_frame s
    obtain ⟨hop0', hop1', -⟩ := frameFilter_frame (frameControl s)
    exact ⟨hop0'.trans hop0, hop1'.trans hop1⟩

theorem memWrite_op0 (w : Word) (s : State) : memWrite 0x04#5 w s = s.withOp0 w := rfl
theorem memWrite_op1 (w : Word) (s : State) : memWrite 0x08#5 w s = s.withOp1 w := rfl
theorem memRead_op0 (s : State) : memRead 0x04#5 s = s.op0 := rfl
theorem memRead_op1 (s : State) : memRead 0x08#5 s = s.op1 := rfl

/-- A register other than CMD written and then read: the read is served in the state `u` the write leaves. -/
theorem run_write_read {off : Offset} (ha : Offset.isAligned off = true) (hc : isCmd off = false) {s u : State}
    {v : Word} {rest : List HostEvent} (h : s.pending = .write .word off v :: .read .word off :: rest)
    (hwritten : memWrite off v (s.withPending (.read .word off :: rest)) = u)
    (hqueue : u.pending = .read .word off :: rest) :
    core.run 2 s = .next ((u.withPending rest).withReadLog (memRead off (u.withPending rest) :: u.readLog)) := by
  have hwrite : step s = .next u := by rw [step_event h, serve_write ha hc, hwritten]
  rw [run_succ hwrite, run_succ ((step_event hqueue).trans (serve_read ha _)), run_zero]
  rfl

/-- Settles O14: the two read-backs, the commands' frame, and the state a CMD write runs its command on. -/
theorem operandRegistersAreStorage : Obligations.OperandRegistersAreStorage := by
  refine ⟨fun s v rest => ⟨fun h => ?_, fun h => ?_⟩, fun i s => ?_, fun s w i rest h hdecode => ?_⟩
  · rw [run_write_read (by decide) (by decide) h (memWrite_op0 _ _) rfl, memRead_op0]; rfl
  · rw [run_write_read (by decide) (by decide) h (memWrite_op1 _ _) rfl, memRead_op1]; rfl
  · obtain ⟨t, ht⟩ := exec_next i s
    exact ⟨t, ht, exec_operands ht⟩
  · refine ⟨s.withPending rest, rfl, rfl, ?_⟩
    rw [step_event h, serve_command (by decide) (by decide), runCommand, hdecode]

/-! ### BADCMD -/

/-- INIT clears BADCMD, and no other command writes it (10_state.md R29). -/
theorem exec_badcmd {i : Instr} {s t : State} (h : exec i s = .next t) :
    (i = .init ∧ t.badcmd = false) ∨ t.badcmd = s.badcmd := by
  cases i with
  | nop => cases h; exact .inr rfl
  | init => cases h; exact .inl ⟨rfl, (loadDefaults_frame _).badcmd⟩
  | setFs =>
    rw [exec_setFs] at h
    split at h <;> cases h
    · exact .inr rfl
    · obtain ⟨-, -, -, -, hbadcmd, -⟩ := propagateFs_frame (coerceFs s.op0) s
      exact .inr hbadcmd
  | loadDefaults => cases h; exact .inr (loadDefaults_frame s).badcmd
  | setParam idx => cases h; exact .inr (setParam_frame _ _ s).badcmd
  | getParam idx => cases h; exact .inr rfl
  | frame =>
    cases h
    obtain ⟨-, -, -, -, hbadcmd, -⟩ := frameControl_frame s
    obtain ⟨-, -, -, -, hbadcmd', -⟩ := frameFilter_frame (frameControl s)
    exact .inr (hbadcmd'.trans hbadcmd)

/-- A write that changes BADCMD is a write of STATUS with bit 0 = 1, and clears it (20_memory.md R45). -/
theorem memWrite_badcmd {off : Offset} {w : Word} {s : State} (ha : Offset.isAligned off = true)
    (h : (memWrite off w s).badcmd ≠ s.badcmd) :
    off = 0x14#5 ∧ w.getLsbD 0 = true ∧ (memWrite off w s).badcmd = false := by
  have hoff : (off.extractLsb' 2 3).toNat = 5 := by
    by_contra hne
    unfold memWrite at h
    split at h
    case h_3 heq => exact hne heq
    all_goals exact h rfl
  have hstatus : off = 0x14#5 := by
    clear h
    revert off; decide
  subst hstatus
  rcases statusWrite_cases w s with ⟨hbit, e⟩ | ⟨_, e⟩
  · exact ⟨rfl, hbit, congrArg State.badcmd e⟩
  · exact absurd (congrArg State.badcmd e) h

/-- The one word that decodes to INIT (30_encoding.md R56). -/
theorem eq_of_decode_init {w : Word} (h : decode w = .ok .init) : w = 0x01000000#32 := by
  obtain ⟨hrsvd, ⟨_, hi⟩ | ⟨_, hi⟩ | ⟨hidx, hplain⟩⟩ := decode_ok_cases h
  · cases hi
  · cases hi
  · rcases plainOpcode_cases hplain with ⟨_, hi⟩ | ⟨hopc, _⟩ | ⟨_, hi⟩ | ⟨_, hi⟩ | ⟨_, hi⟩
    · cases hi
    · rw [← fields_append w, hopc, hrsvd, hidx]; rfl
    all_goals cases hi

theorem toNat_odd_of_getLsbD {w : Word} (h : w.getLsbD 0 = true) : w.toNat % 2 = 1 := by
  rw [BitVec.getLsbD, Nat.testBit_zero] at h
  exact decide_eq_true_iff.mp h

/-- Settles O13, over everything a step can do. -/
theorem badcmdChangesOnlyByItsRules : Obligations.BadcmdChangesOnlyByItsRules := by
  intro s t hstep hne
  rcases step_cases hstep with ⟨-, rfl⟩ | ⟨e, rest, hpending, hserved⟩
  · exact absurd rfl hne
  · rcases hserved with ⟨off, -, -, rfl⟩ | ⟨off, w, rfl, ha, -, rfl⟩ | ⟨off, w, i, rfl, ha, hc, hdecode, he⟩ |
      ⟨off, w, c, rfl, ha, hc, hdecode, rfl⟩ | ⟨rfl, rfl⟩
    · exact absurd rfl hne
    · obtain ⟨rfl, hbit, hclear⟩ := memWrite_badcmd (s := s.withPending rest) ha hne
      exact .inr ⟨hclear, rest, .inl ⟨w, toNat_odd_of_getLsbD hbit, hpending⟩⟩
    · obtain ⟨rfl, hclear⟩ := (exec_badcmd he).resolve_right hne
      rw [eq_zero_of_isCmd ha hc, eq_of_decode_init hdecode] at hpending
      exact .inr ⟨hclear, rest, .inr (.inl hpending)⟩
    · rw [eq_zero_of_isCmd ha hc] at hpending
      exact .inl ⟨rfl, w, c, rest, hpending, hdecode⟩
    · exact .inr ⟨rfl, rest, .inr (.inr hpending)⟩

/-! ### Reset -/

/-- The LFO increment at reset, 1.0 Hz at 44100.0 Hz (10_state.md R38). -/
theorem oscInc_default : oscInc Config.rateDefault Config.fsDefault = 0x37BE37C6#32 := by decide +kernel

/-- Settles O16, register by register; the increment is the one that is computed. -/
theorem resetRegisterValues : Obligations.ResetRegisterValues := by
  have hosc : State.reset.osc = ⟨0x472C4400#32, .triangle, 0x3F800000#32, 0x37BE37C6#32, 0#32⟩ := by
    rw [← oscInc_default]; rfl
  exact ⟨rfl, rfl, rfl, rfl, rfl, rfl, rfl, rfl, rfl, rfl, rfl, hosc, rfl, rfl, rfl, rfl⟩

end Sys2Proof.Machine
end

section
/-! PROOFS. FRAME moves the filters' cutoff off `P[0]`, whatever the open field `exp_f32` answers (10_state.md R35). -/

namespace Sys2Proof.Machine

/-! ### Magnitudes of results -/

/-- A sum is no larger than a representable bound on its exact value. -/
theorem mag_addFinite_le {a b : F32} {n : Nat} (h : (value a + value b).natAbs ≤ units n) :
    mag (addFinite a b) ≤ n := by
  unfold addFinite
  split
  · rw [mag_withSign _ _ (Nat.zero_le _)]; exact Nat.zero_le n
  · rw [mag_withSign _ _ (roundMag_le_inf _ _)]
    exact roundMag_le (by decide) (by simpa using h)

/-- A product is no larger than a representable bound on its exact value. -/
theorem mag_fmul_le {a b : F32} {n : Nat} (ha : isFinite a = true) (hb : isFinite b = true)
    (h : units (mag a) * units (mag b) ≤ units n * 2 ^ 149) : mag (fmul a b) ≤ n := by
  rw [fmul_of_finite ha hb, mag_withSign _ _ (roundMag_le_inf _ _)]
  exact roundMag_le (by decide) h

theorem isFinite_of_mag_le {x : F32} {n : Nat} (h : mag x ≤ n) (hn : n < magInf) : isFinite x = true :=
  (isFinite_iff_mag x).mpr (h.trans_lt hn)

/-- Clamping does not lift a value over a bound that holds for it and for the lower end. -/
theorem key_clamp_le {v lo hi : F32} {n : Nat} (hlo : key lo ≤ n) (hv : mag v ≤ n) : key (clamp v lo hi) ≤ n := by
  have hkey : key v ≤ n := by unfold key; split <;> omega
  unfold clamp
  split
  · exact hlo
  · split
    · rename_i hhi
      obtain ⟨_, _, hlt⟩ := flt_iff.mp hhi
      omega
    · exact hkey

/-- The magnitudes a weight in [0.0, 1.0] can have. -/
theorem mag_le_of_mem_unit {x : F32} (h : within f0 f1 x = true) : mag x ≤ mag f1 := by
  obtain ⟨hlow, hhigh⟩ := within_iff.mp h
  obtain ⟨_, _, hlow⟩ := fle_iff.mp hlow
  obtain ⟨_, _, hhigh⟩ := fle_iff.mp hhigh
  rw [show key f0 = 0 by decide] at hlow
  rw [show key f1 = mag f1 by decide] at hhigh
  cases hs : sgn x <;> simp only [key, hs, Bool.false_eq_true, if_true, if_false] at hlow hhigh <;> omega

/-- The complement of a weight in [0.0, 1.0] has a magnitude of at most 1.0. -/
theorem mag_one_sub_le {x : F32} (h : within f0 f1 x = true) : mag (fsub f1 x) ≤ mag f1 := by
  have hfin : isFinite x = true := isFinite_of_mag_le (mag_le_of_mem_unit h) (by decide)
  obtain ⟨hlow, hhigh⟩ := within_iff.mp h
  rw [(comparisons_of_finite (by decide) hfin).2.1, show value f0 = 0 by decide] at hlow
  rw [(comparisons_of_finite hfin (by decide)).2.1] at hhigh
  rw [fsub_of_finite (by decide) hfin]
  apply mag_addFinite_le
  rw [value_fneg, show (units (mag f1)) = (value f1).natAbs by decide]
  omega

/-! ### One octave down from reset -/

/-- A smoother at rest that weighs its target with the complement of a weight in [0.0, 1.0] does not pass the target
(41_smoother.md R67). -/
theorem mag_smNext_le {target : F32} {sm : Smoother} (htarget : isFinite target = true)
    (ha : within f0 f1 sm.a = true) (hb : sm.b = fsub f1 sm.a) (hz : sm.z = f0) :
    mag (smNext target sm) ≤ mag target := by
  have hone : units (mag f1) = 2 ^ 149 := by decide
  have hbMag : mag sm.b ≤ mag f1 := hb ▸ mag_one_sub_le ha
  have hbFin : isFinite sm.b = true := isFinite_of_mag_le hbMag (by decide)
  have haFin : isFinite sm.a = true := isFinite_of_mag_le (mag_le_of_mem_unit ha) (by decide)
  have hfresh : mag (fmul target sm.b) ≤ mag target :=
    mag_fmul_le htarget hbFin (Nat.mul_le_mul_left _ (hone ▸ units_le_units hbMag))
  have hkept : mag (fmul sm.z sm.a) ≤ 0 :=
    mag_fmul_le (hz ▸ by decide) haFin (by simp [hz, show mag f0 = 0 by decide, units_zero])
  have hkeptZero : value (fmul sm.z sm.a) = 0 := (value_eq_zero_iff _).mpr (by simpa [isZero] using hkept)
  rw [smNext, fadd_of_finite (isFinite_of_mag_le hfresh (isFinite_of_mag htarget))
    (isFinite_of_mag_le hkept (by decide))]
  apply mag_addFinite_le
  rw [hkeptZero, add_zero, natAbs_value]
  exact units_le_units hfresh

/-- The reset state with the waveform set to Square (3.0) and the depth to -1200.0 cents: its first tick halves the
cutoff. -/
def octaveDown : State := setParam 4 0xC4960000#32 (setParam 2 f3 State.reset)

theorem octaveDown_inv : octaveDown.Inv := setParam_inv (setParam_inv resetMeetsTheInvariants 2 _) 4 _

/-- Square is 1.0 at the first tick, and T3 settles 2^-1. -/
theorem octaveDown_modFactor : modFactor (oscTickValue octaveDown.osc) octaveDown.params.lfoModDepth = fHalf := by
  decide +kernel

/-- The smoother is at rest at the default rate, with the weight that `exp_f32` answers, in [0.0, 1.0] by T4. -/
theorem octaveDown_smoothed : mag (smNext octaveDown.params.cutoff octaveDown.sm) ≤ mag Config.cutDefault := by
  have hexponent : fle (smExponent Config.smoothTimeMs Config.fsDefault) f0 = true := by decide +kernel
  exact mag_smNext_le (sm := octaveDown.sm) (by decide) (within_expF32 hexponent) rfl rfl

/-- The modulated cutoff before it is clamped is at most 7500.0, half the default. -/
theorem octaveDown_modulated :
    mag (fmul (smNext octaveDown.params.cutoff octaveDown.sm) fHalf) ≤ mag 0x45EA6000#32 := by
  have hhalf : units (mag Config.cutDefault) * units (mag fHalf) = units (mag 0x45EA6000#32) * 2 ^ 149 := by decide
  apply mag_fmul_le (isFinite_of_mag_le octaveDown_smoothed (by decide)) (by decide)
  exact (Nat.mul_le_mul_right _ (units_le_units octaveDown_smoothed)).trans_eq hhalf

/-- FRAME leaves the left filter's cutoff at the clamped half, at most 7500.0. -/
theorem octaveDown_cut : key (frameFilter (frameControl octaveDown)).fl.cut ≤ mag 0x45EA6000#32 := by
  have hdepth : fne octaveDown.params.lfoModDepth f0 = true := by decide
  obtain ⟨-, -, -, -, -, -, -, -, -, hfl, -⟩ := frameFilter_frame (frameControl octaveDown)
  rcases frameControl_filters octaveDown with ⟨hzero, -⟩ | ⟨-, -, m, hm, hcontrol, -⟩
  · rw [hdepth] at hzero; cases hzero
  · have hnan := isNaN_false_of_finite (isFinite_of_mag_le octaveDown_modulated (by decide))
    rw [modCutoff, octaveDown_modFactor] at hm
    rw [hfl, fltProcess, hcontrol, hm, fltSetCutoff_clamp _ hnan]
    exact key_clamp_le (by decide) octaveDown_modulated

/-- Settles O35: from `octaveDown`, `P[0]` stays at 15000.0 and the cutoff falls to at most 7500.0. -/
theorem frameCanMoveTheCutoffOffTheParameter : Obligations.FrameCanMoveTheCutoffOffTheParameter := by
  obtain ⟨-, -, -, -, -, -, hparams, -⟩ := frameControl_frame octaveDown
  obtain ⟨-, -, -, -, -, -, hparams', -⟩ := frameFilter_frame (frameControl octaveDown)
  refine ⟨octaveDown, _, octaveDown_inv, rfl, exec_frame _, hparams'.trans hparams, fun heq => ?_⟩
  have hcut := octaveDown_cut
  rw [heq, hparams', hparams] at hcut
  exact absurd hcut (by decide)

end Sys2Proof.Machine
end

section
/-! PROOFS. The register window: its reads, its writes and the accesses it refuses (20_memory.md R41 to R46). -/

namespace Sys2Proof.Machine

/-! ### The register window -/

/-- The eight word offsets of the window (20_memory.md R39, R42). -/
theorem wordOffset_cases {off : Offset} (h : off.toNat % 4 = 0) :
    off = 0x00#5 ∨ off = 0x04#5 ∨ off = 0x08#5 ∨ off = 0x0C#5 ∨
    off = 0x10#5 ∨ off = 0x14#5 ∨ off = 0x18#5 ∨ off = 0x1C#5 := by
  revert off; decide

/-- The table of 20_memory.md R44. -/
theorem memRead_wordOffset {off : Offset} (h : off.toNat % 4 = 0) (s : State) :
    memRead off s =
      if off = 0x04#5 then s.op0 else if off = 0x08#5 then s.op1 else if off = 0x0C#5 then s.res0
      else if off = 0x10#5 then s.res1 else if off = 0x14#5 then (if s.badcmd then 1#32 else 0#32) else 0#32 := by
  rcases wordOffset_cases h with rfl | rfl | rfl | rfl | rfl | rfl | rfl | rfl <;> rfl

/-- A write of STATUS depends on the word's parity only (20_memory.md R45). -/
theorem statusWrite_eq (w : Word) (s : State) :
    statusWrite w s = if w.toNat % 2 = 1 then s.withBadcmd false else s := by
  simp [statusWrite, BitVec.getLsbD]

/-- The table of 20_memory.md R45 without the row of CMD, which `memWrite` leaves alone. -/
theorem memWrite_wordOffset {off : Offset} (h : off.toNat % 4 = 0) (w : Word) (s : State) :
    memWrite off w s =
      if off = 0x04#5 then s.withOp0 w else if off = 0x08#5 then s.withOp1 w
      else if off = 0x14#5 ∧ w.toNat % 2 = 1 then s.withBadcmd false else s := by
  rcases wordOffset_cases h with rfl | rfl | rfl | rfl | rfl | rfl | rfl | rfl <;> simp [memWrite, statusWrite_eq]

/-- No register of the window holds the host's queue. -/
@[simp] theorem memRead_withPending (off : Offset) (s : State) (q : List HostEvent) :
    memRead off (s.withPending q) = memRead off s := rfl

/-- No register of the window holds the log of the words read. -/
@[simp] theorem memRead_withReadLog (off : Offset) (s : State) (l : List Word) :
    memRead off (s.withReadLog l) = memRead off s := rfl

/-! ### Reads -/

theorem step_read {off : Offset} (ha : Offset.isAligned off = true) {s : State} {rest : List HostEvent}
    (h : s.pending = .read .word off :: rest) :
    step s = .next ((s.withPending rest).withReadLog (memRead off s :: s.readLog)) := by
  rw [step_event h, serve_read ha, memRead_withPending, State.withPending_readLog]

/-- The second of two reads of one offset finds the window as the first found it. -/
theorem run_read_read {off : Offset} (ha : Offset.isAligned off = true) {s : State} {rest : List HostEvent}
    (h : s.pending = .read .word off :: .read .word off :: rest) :
    core.run 2 s =
      .next ((s.withPending rest).withReadLog (memRead off s :: memRead off s :: s.readLog)) := by
  rw [run_succ (step_read ha h), run_succ (step_read ha rfl), run_zero]
  rfl

/-- Settles O9: both reads answer `memRead` of the state before them. -/
theorem readsReturnTheRegisters : Obligations.ReadsReturnTheRegisters := by
  intro s off rest hoff
  have ha := (isAligned_iff off).mpr hoff
  exact ⟨memRead off s, memRead_wordOffset hoff s, step_read ha, run_read_read ha⟩

/-! ### Writes -/

theorem step_write {off : Offset} (ha : Offset.isAligned off = true) (hne : off ≠ 0x00#5) {s : State} {w : Word}
    {rest : List HostEvent} (h : s.pending = .write .word off w :: rest) :
    step s = .next (memWrite off w (s.withPending rest)) := by
  have hc : isCmd off = false := Bool.eq_false_iff.mpr fun hc => hne (eq_zero_of_isCmd ha hc)
  rw [step_event h, serve_write ha hc]

/-- Settles O10, by the table of the writes on the state with the event served. -/
theorem writesReachOnlyTheirRegister : Obligations.WritesReachOnlyTheirRegister := by
  intro s off w rest hoff hne h
  rw [step_write ((isAligned_iff off).mpr hoff) hne h, memWrite_wordOffset hoff]
  rfl

/-! ### Refused accesses -/

/-- A narrow access is refused whatever its offset (20_memory.md R41). -/
theorem serve_narrow {size : AccessSize} (h : size ≠ .word) (off : Offset) (w : Word) (s : State) :
    serve (.read size off) s = .refused (.narrowAccess size off) ∧
    serve (.write size off w) s = .refused (.narrowAccess size off) := by
  cases size with
  | byte => exact ⟨rfl, rfl⟩
  | half => exact ⟨rfl, rfl⟩
  | word => exact absurd rfl h

/-- A word access between the word offsets is refused (20_memory.md R42). -/
theorem serve_misaligned {off : Offset} (h : off.toNat % 4 ≠ 0) (w : Word) (s : State) :
    serve (.read .word off) s = .refused (.misalignedAccess off) ∧
    serve (.write .word off w) s = .refused (.misalignedAccess off) := by
  have ha : Offset.isAligned off = false := Bool.eq_false_iff.mpr (mt (isAligned_iff off).mp h)
  simp [serve, AccessSize.isWord, ha]

/-- Settles O11, for a read and for a write. -/
theorem narrowOrMisalignedIsRefused : Obligations.NarrowOrMisalignedIsRefused := by
  intro s size off w rest hpending
  rcases hpending with h | h <;> rw [step_event h]
  · exact ⟨fun hsize => (serve_narrow hsize off w _).1, fun hsize hoff => hsize ▸ (serve_misaligned hoff w _).1⟩
  · exact ⟨fun hsize => (serve_narrow hsize off w _).2, fun hsize hoff => hsize ▸ (serve_misaligned hoff w _).2⟩

end Sys2Proof.Machine
end

section
/-! PROOFS. The command words: the decoder class by class, its inverse the encoder, and the opcode table
(30_encoding.md R54 to R58). -/

namespace Sys2Proof

/-! ### The decoder, class by class -/

section Classes

variable {w : Word} {i : Instr}

/-- Class (a) of 30_encoding.md R58. -/
theorem decode_reservedNonzero (hrsvd : rsvdField w ≠ 0#16) : decode w = .error .reservedNonzero := by
  simp [decode, hrsvd]

theorem decode_setParam (hrsvd : rsvdField w = 0#16) (hopc : opcField w = 0x10#8) :
    decode w = .ok (.setParam (idxField w)) := by
  simp [decode, hrsvd, hopc]

theorem decode_getParam (hrsvd : rsvdField w = 0#16) (hopc : opcField w = 0x11#8) :
    decode w = .ok (.getParam (idxField w)) := by
  simp [decode, hrsvd, hopc]

/-- The two opcodes that take an index are not among the plain ones (30_encoding.md R56). -/
theorem plainOpcode_ne_indexed {opc : BitVec 8} (h : plainOpcode opc = some i) : opc ≠ 0x10#8 ∧ opc ≠ 0x11#8 := by
  constructor <;> rintro rfl <;> cases h

theorem decode_plain (hrsvd : rsvdField w = 0#16) (hopc : plainOpcode (opcField w) = some i)
    (hidx : idxField w = 0#8) : decode w = .ok i := by
  obtain ⟨hset, hget⟩ := plainOpcode_ne_indexed hopc
  simp [decode, hrsvd, hset, hget, hidx, hopc]

/-- Class (c) of 30_encoding.md R58. -/
theorem decode_indexNonzero (hrsvd : rsvdField w = 0#16) (hopc : plainOpcode (opcField w) = some i)
    (hidx : idxField w ≠ 0#8) : decode w = .error .indexNonzero := by
  obtain ⟨hset, hget⟩ := plainOpcode_ne_indexed hopc
  simp [decode, hrsvd, hset, hget, hidx, hopc]

/-- Class (b) of 30_encoding.md R58, with any IDX. -/
theorem decode_unassignedOpcode (hrsvd : rsvdField w = 0#16) (hset : opcField w ≠ 0x10#8)
    (hget : opcField w ≠ 0x11#8) (hopc : plainOpcode (opcField w) = none) :
    decode w = .error .unassignedOpcode := by
  by_cases hidx : idxField w = 0#8 <;> simp [decode, hrsvd, hset, hget, hidx, hopc]

end Classes

/-! ### The encoder is the decoder's inverse -/

@[simp] theorem opcField_commandWord (opc idx : BitVec 8) : opcField (commandWord opc idx) = opc :=
  opcField_append opc idx 0#16

@[simp] theorem rsvdField_commandWord (opc idx : BitVec 8) : rsvdField (commandWord opc idx) = 0#16 :=
  rsvdField_append opc idx 0#16

@[simp] theorem idxField_commandWord (opc idx : BitVec 8) : idxField (commandWord opc idx) = idx :=
  idxField_append opc idx 0#16

/-- A word with RSVD = 0 is the command word of its other two fields. -/
theorem eq_commandWord {w : Word} {opc : BitVec 8} (hrsvd : rsvdField w = 0#16) (hopc : opcField w = opc) :
    w = commandWord opc (idxField w) := by
  rw [← hopc, commandWord, ← hrsvd, fields_append]

theorem decode_commandWord_plain {opc : BitVec 8} {i : Instr} (h : plainOpcode opc = some i) :
    decode (commandWord opc 0#8) = .ok i :=
  decode_plain (by simp) (by simpa using h) (by simp)

theorem decode_encode (i : Instr) : decode (encode i) = .ok i := by
  cases i with
  | nop => exact decode_commandWord_plain rfl
  | init => exact decode_commandWord_plain rfl
  | setFs => exact decode_commandWord_plain rfl
  | loadDefaults => exact decode_commandWord_plain rfl
  | setParam idx => simpa [encode] using decode_setParam (w := commandWord 0x10#8 idx)
  | getParam idx => simpa [encode] using decode_getParam (w := commandWord 0x11#8 idx)
  | frame => exact decode_commandWord_plain rfl

theorem encode_eq_of_plainOpcode {opc : BitVec 8} {i : Instr} (h : plainOpcode opc = some i) :
    encode i = commandWord opc 0#8 := by
  rcases plainOpcode_cases h with ⟨rfl, rfl⟩ | ⟨rfl, rfl⟩ | ⟨rfl, rfl⟩ | ⟨rfl, rfl⟩ | ⟨rfl, rfl⟩ <;> rfl

/-- The one word of each command (30_encoding.md R55, R56). -/
theorem decode_ok_iff {w : Word} {i : Instr} : decode w = .ok i ↔ w = encode i := by
  constructor
  · intro h
    obtain ⟨hrsvd, ⟨hopc, rfl⟩ | ⟨hopc, rfl⟩ | ⟨hidx, hplain⟩⟩ := decode_ok_cases h
    · exact eq_commandWord hrsvd hopc
    · exact eq_commandWord hrsvd hopc
    · rw [encode_eq_of_plainOpcode hplain, ← hidx]
      exact eq_commandWord hrsvd rfl
  · rintro rfl
    exact decode_encode i

/-- Settles O1. -/
theorem decodeOfEncode : Obligations.DecodeOfEncode := fun i _ => decode_encode i

/-- Settles O2. -/
theorem encodeOfDecode : Obligations.EncodeOfDecode := fun _ _ h => (decode_ok_iff.mp h).symm

/-- Settles O6: the seven words are the encoder's, and the other three stand one in each class of R58. -/
theorem writtenOutWordsDecode : Obligations.WrittenOutWordsDecode :=
  ⟨decode_encode .nop, decode_encode .init, decode_encode .setFs, decode_encode .loadDefaults,
    decode_encode (.setParam 3#8), decode_encode (.getParam 255#8), decode_encode .frame,
    decode_reservedNonzero (by decide), decode_unassignedOpcode (by decide) (by decide) (by decide) (by decide),
    decode_indexNonzero (i := .init) (by decide) (by decide) (by decide)⟩

/-! ### The decoder, field by field -/

/-- The opcodes of 30_encoding.md R56 that take no index. -/
def plainOpcodes : List (BitVec 8) := [0x00#8, 0x01#8, 0x02#8, 0x03#8, 0x20#8]

/-- The seven opcodes of 30_encoding.md R56. -/
def assignedOpcodes : List (BitVec 8) := [0x00#8, 0x01#8, 0x02#8, 0x03#8, 0x10#8, 0x11#8, 0x20#8]

theorem mem_assignedOpcodes {opc : BitVec 8} :
    opc ∈ assignedOpcodes ↔ opc = 0x10#8 ∨ opc = 0x11#8 ∨ opc ∈ plainOpcodes := by
  simp only [assignedOpcodes, plainOpcodes, List.mem_cons, List.not_mem_nil, or_false]
  tauto

theorem plainOpcode_eq_none_iff {opc : BitVec 8} : plainOpcode opc = none ↔ opc ∉ plainOpcodes := by
  revert opc; decide

theorem exists_plainOpcode_iff {opc : BitVec 8} : (∃ i, plainOpcode opc = some i) ↔ opc ∈ plainOpcodes := by
  rw [← Option.ne_none_iff_exists', ne_eq, plainOpcode_eq_none_iff, not_not]

section Fields

variable {w : Word}

theorem decode_of_unassigned (h : opcField w ∉ assignedOpcodes) : ∃ c, decode w = .error c := by
  by_cases hrsvd : rsvdField w = 0#16
  · simp only [mem_assignedOpcodes, not_or] at h
    obtain ⟨hset, hget, hplain⟩ := h
    exact ⟨_, decode_unassignedOpcode hrsvd hset hget (plainOpcode_eq_none_iff.mpr hplain)⟩
  · exact ⟨_, decode_reservedNonzero hrsvd⟩

theorem decode_of_plain_index (hopc : opcField w ∈ plainOpcodes) (hidx : idxField w ≠ 0#8) :
    ∃ c, decode w = .error c := by
  by_cases hrsvd : rsvdField w = 0#16
  · obtain ⟨i, hi⟩ := exists_plainOpcode_iff.mpr hopc
    exact ⟨_, decode_indexNonzero hrsvd hi hidx⟩
  · exact ⟨_, decode_reservedNonzero hrsvd⟩

/-- A word in none of the three classes of 30_encoding.md R58 is a command. -/
theorem decode_of_legal (hrsvd : rsvdField w = 0#16) (hopc : opcField w ∈ assignedOpcodes)
    (hidx : opcField w ∈ plainOpcodes → idxField w = 0#8) : ∃ i, decode w = .ok i := by
  rcases mem_assignedOpcodes.mp hopc with hset | hget | hplain
  · exact ⟨_, decode_setParam hrsvd hset⟩
  · exact ⟨_, decode_getParam hrsvd hget⟩
  · obtain ⟨i, hi⟩ := exists_plainOpcode_iff.mpr hplain
    exact ⟨i, decode_plain hrsvd hi (hidx hplain)⟩

/-- The classes (a), (b) and (c) of 30_encoding.md R58 are the words that decode to no command. -/
theorem decode_error_iff : (∃ c, decode w = .error c) ↔
    (rsvdField w ≠ 0#16 ∨ opcField w ∉ assignedOpcodes ∨ (opcField w ∈ plainOpcodes ∧ idxField w ≠ 0#8)) := by
  constructor
  · rintro ⟨c, hc⟩
    by_contra hlegal
    push Not at hlegal
    obtain ⟨hrsvd, hopc, hidx⟩ := hlegal
    obtain ⟨i, hi⟩ := decode_of_legal hrsvd hopc hidx
    cases hc.symm.trans hi
  · rintro (hrsvd | hopc | ⟨hopc, hidx⟩)
    · exact ⟨_, decode_reservedNonzero hrsvd⟩
    · exact decode_of_unassigned hopc
    · exact decode_of_plain_index hopc hidx

end Fields

/-- Settles O3: the fields of `{OPC, RSVD, IDX}` are the three it was made of. -/
theorem decodeFollowsTheFields : Obligations.DecodeFollowsTheFields := by
  intro opc rsvd idx
  refine ⟨fun hrsvd => ⟨_, decode_reservedNonzero (by simpa using hrsvd)⟩, ?_⟩
  rintro rfl
  have hplain {i : Instr} (hidx : idx = 0#8) (h : plainOpcode opc = some i) : decode (opc ++ 0#16 ++ idx) = .ok i :=
    hidx ▸ decode_commandWord_plain h
  have hbad (hset : opc ≠ 0x10#8) (hget : opc ≠ 0x11#8) (h : opc ∉ plainOpcodes) :
      ∃ c, decode (opc ++ 0#16 ++ idx) = .error c :=
    decode_of_unassigned (by simp [mem_assignedOpcodes, hset, hget, h])
  refine ⟨?_, ?_, fun hset hget hidx => ?_, fun hset hget hidx => ⟨?_, ?_, ?_, ?_, ?_, hbad hset hget⟩⟩
  · rintro rfl; exact decode_encode (.setParam idx)
  · rintro rfl; exact decode_encode (.getParam idx)
  · by_cases hopc : opc ∈ plainOpcodes
    · exact decode_of_plain_index (by simpa using hopc) (by simpa using hidx)
    · exact hbad hset hget hopc
  all_goals rintro rfl; exact hplain hidx rfl

/-! ### The opcode table -/

/-- A mask of all ones selects the row's pattern and no other word. -/
theorem selects_wholeWord {m : String} {p w : Word} : OpcodeRow.selects ⟨m, p, 0xFFFFFFFF#32⟩ w = true ↔ w = p := by
  have hmask : w &&& 0xFFFFFFFF#32 = w := BitVec.and_allOnes
  rw [OpcodeRow.selects, hmask, beq_iff_eq]

/-- A mask that leaves IDX out selects only command words of the pattern's opcode. -/
theorem eq_commandWord_of_selects {m : String} {opc : BitVec 8} {w : Word}
    (h : OpcodeRow.selects ⟨m, commandWord opc 0#8, 0xFFFFFF00#32⟩ w = true) : w = commandWord opc (idxField w) := by
  have hand : w &&& 0xFFFFFF00#32 = commandWord opc 0#8 := beq_iff_eq.mp h
  have hrsvd : rsvdField (w &&& 0xFFFFFF00#32) = rsvdField w := BitVec.extractLsb'_and.trans BitVec.and_allOnes
  have hopc : opcField (w &&& 0xFFFFFF00#32) = opcField w := BitVec.extractLsb'_and.trans BitVec.and_allOnes
  rw [hand] at hrsvd hopc
  exact eq_commandWord (hrsvd.symm.trans (rsvdField_commandWord opc 0#8))
    (hopc.symm.trans (opcField_commandWord opc 0#8))

/-- A word that a row selects is the encoder's word for a command of that row. -/
theorem exists_encode_of_selects {r : OpcodeRow} {w : Word} (hr : r ∈ opcodeTable) (h : r.selects w = true) :
    ∃ i : Instr, w = encode i ∧ i.mnemonic = r.mnemonic := by
  simp only [opcodeTable, List.mem_cons, List.not_mem_nil, or_false] at hr
  rcases hr with rfl | rfl | rfl | rfl | rfl | rfl | rfl
  · exact ⟨.nop, selects_wholeWord.mp h, rfl⟩
  · exact ⟨.init, selects_wholeWord.mp h, rfl⟩
  · exact ⟨.setFs, selects_wholeWord.mp h, rfl⟩
  · exact ⟨.loadDefaults, selects_wholeWord.mp h, rfl⟩
  · exact ⟨.setParam (idxField w), eq_commandWord_of_selects (opc := 0x10#8) h, rfl⟩
  · exact ⟨.getParam (idxField w), eq_commandWord_of_selects (opc := 0x11#8) h, rfl⟩
  · exact ⟨.frame, selects_wholeWord.mp h, rfl⟩

/-- Every command's word is selected by the row of its mnemonic. -/
theorem encode_selected (i : Instr) : Laws.EncodedWordIsInTheTable.Statement i := by
  cases i with
  | nop => exact Laws.EncodedWordIsInTheTable.nop
  | init => exact Laws.EncodedWordIsInTheTable.init
  | setFs => exact Laws.EncodedWordIsInTheTable.setFs
  | loadDefaults => exact Laws.EncodedWordIsInTheTable.loadDefaults
  | setParam idx => exact Laws.EncodedWordIsInTheTable.setParam idx
  | getParam idx => exact Laws.EncodedWordIsInTheTable.getParam idx
  | frame => exact Laws.EncodedWordIsInTheTable.frame

/-- No mnemonic stands in two rows of the table. -/
theorem eq_of_mnemonic_eq : ∀ r ∈ opcodeTable, ∀ r' ∈ opcodeTable, r.mnemonic = r'.mnemonic → r = r' := by decide

/-- Settles O5: two rows that select one word carry the mnemonic of the one command it decodes to. -/
theorem opcodeTableSelectsWhatDecodes : Obligations.OpcodeTableSelectsWhatDecodes := by
  refine ⟨fun w i hdecode => ?_, fun w r hr h => ?_, fun w r hr r' hr' h h' => ?_⟩
  · obtain rfl := decode_ok_iff.mp hdecode
    exact encode_selected i
  · obtain ⟨i, hw, hi⟩ := exists_encode_of_selects hr h
    exact ⟨i, decode_ok_iff.mpr hw, hi⟩
  · obtain ⟨i, hw, hi⟩ := exists_encode_of_selects hr h
    obtain ⟨i', hw', hi'⟩ := exists_encode_of_selects hr' h'
    have hsame : i = i' := Except.ok.inj ((decode_ok_iff.mpr hw).symm.trans (decode_ok_iff.mpr hw'))
    exact eq_of_mnemonic_eq r hr r' hr' (by rw [← hi, ← hi', hsame])

end Sys2Proof
end

section
/-! PROOFS. Command words on the bus: an illegal word sets BADCMD, and an expansion runs its command (30_encoding.md
R58, R63). -/

namespace Sys2Proof.Machine

/-! ### CMD writes -/

/-- A CMD write at the head of the queue runs its word (44_engine_commands.md R90). -/
theorem step_command {w : Word} {s : State} {rest : List HostEvent} (h : s.pending = commandEvent w :: rest) :
    step s = runCommand w (s.withPending rest) := by
  rw [step_event h, commandEvent, serve_command (by decide) (by decide)]

theorem runCommand_illegal {w : Word} {c : BadWord} (h : decode w = .error c) (s : State) :
    runCommand w s = .next (takeBad s) := by
  rw [runCommand, h]

theorem runCommand_encode (i : Instr) (s : State) : runCommand (encode i) s = exec i s := by
  rw [runCommand, decode_encode]

/-- Settles O4: the classes of R58 by the fields, whose numbers the statement gives. -/
theorem illegalWordsOnlySetBadcmd : Obligations.IllegalWordsOnlySetBadcmd := by
  intro w
  refine ⟨?_, fun c s rest hdecode h => (step_command h).trans (runCommand_illegal hdecode _)⟩
  have hopc (l : List (BitVec 8)) : (opcField w).toNat ∈ l.map BitVec.toNat ↔ opcField w ∈ l :=
    List.mem_map_of_injective BitVec.toNat_injective
  rw [decode_error_iff, ← rsvdField_toNat, ← opcField_toNat, ← idxField_toNat, ← hopc, ← hopc,
    ← BitVec.toNat_ne_iff_ne, ← BitVec.toNat_ne_iff_ne (x := idxField w)]
  rfl

/-! ### The commands and the host's side of the port -/

/-- The host's side of the port, the queue `q` and the log `l`, exchanged. -/
def State.withHost (s : State) (q : List HostEvent) (l : List Word) : State := (s.withPending q).withReadLog l

section Host

variable (q : List HostEvent) (l : List Word)

theorem setParam_withHost (i : Nat) (v : F32) (s : State) :
    setParam i v (s.withHost q l) = (setParam i v s).withHost q l := by
  unfold setParam
  split_ifs
  · rfl
  · rfl
  · split <;> rfl

theorem loadDefaults_withHost (s : State) : loadDefaults (s.withHost q l) = (loadDefaults s).withHost q l := by
  simp only [loadDefaults, setParam_withHost]

theorem construct_withHost (fs : F32) (s : State) :
    construct fs (s.withHost q l) = (construct fs s).withHost q l := rfl

theorem propagateFs_withHost (fs : F32) (s : State) :
    propagateFs fs (s.withHost q l) = (propagateFs fs s).withHost q l := by
  unfold propagateFs; rfl

theorem frameControl_withHost (s : State) : frameControl (s.withHost q l) = (frameControl s).withHost q l := by
  have hdepth : (s.withHost q l).params.lfoModDepth = s.params.lfoModDepth := rfl
  unfold frameControl
  rw [hdepth]
  split <;> rfl

theorem frameFilter_withHost (s : State) : frameFilter (s.withHost q l) = (frameFilter s).withHost q l := by
  unfold frameFilter; rfl

/-- No command sees or writes the host's side of the port. -/
theorem exec_withHost {i : Instr} {s t : State} (h : exec i s = .next t) :
    exec i (s.withHost q l) = .next (t.withHost q l) := by
  have hop0 : (s.withHost q l).op0 = s.op0 := rfl
  have hfs : (s.withHost q l).fs = s.fs := rfl
  cases i with
  | nop => cases h; rfl
  | init => cases h; rw [exec_init, hop0, construct_withHost, loadDefaults_withHost]
  | setFs =>
    rw [exec_setFs] at h ⊢
    rw [hop0, hfs]
    split at h <;> cases h
    · rw [if_pos ‹_›]
    · rw [if_neg ‹_›, propagateFs_withHost]
  | loadDefaults => cases h; rw [exec_loadDefaults, loadDefaults_withHost]
  | setParam idx => cases h; exact congrArg _ (setParam_withHost q l _ _ s)
  | getParam idx => cases h; rfl
  | frame => cases h; rw [exec_frame, frameControl_withHost, frameFilter_withHost]

end Host

/-- A command leaves the queue as it found it. -/
theorem exec_pending {i : Instr} {s t : State} (h : exec i s = .next t) : t.pending = s.pending := by
  have hsame : exec i s = .next (t.withHost s.pending s.readLog) := exec_withHost s.pending s.readLog h
  injection h.symm.trans hsame with ht
  rw [ht]
  rfl

/-! ### The accesses of an expansion, served at the head of the queue -/

section Served

variable {s : State} {rest : List HostEvent} (k : Nat)

theorem run_write {off : Offset} (ha : Offset.isAligned off = true) (hne : off ≠ 0x00#5) {v : Word}
    (h : s.pending = .write .word off v :: rest) :
    core.run (k + 1) s = core.run k (memWrite off v (s.withPending rest)) :=
  run_succ (step_write ha hne h) k

theorem run_read {off : Offset} (ha : Offset.isAligned off = true) (h : s.pending = .read .word off :: rest) :
    core.run (k + 1) s = core.run k (s.withHost rest (memRead off s :: s.readLog)) :=
  run_succ (step_read ha h) k

theorem run_command {i : Instr} {t : State} (h : s.pending = commandEvent (encode i) :: rest)
    (he : exec i (s.withPending rest) = .next t) : core.run (k + 1) s = core.run k t :=
  run_succ ((step_command h).trans ((runCommand_encode i _).trans he)) k

end Served

/-! ### The expansions -/

/-- A command with no operand to write and no result to read. -/
theorem expansion_plain (i : Instr) (s : State) (rest : List HostEvent) :
    ∃ u, exec i { s with pending := rest } = .next u ∧
      core.run 1 { s with pending := commandEvent (encode i) :: rest } = .next u := by
  obtain ⟨u, hu⟩ := exec_next i { s with pending := rest }
  exact ⟨u, hu, run_command 0 rfl hu⟩

/-- A command whose one operand goes to OP0. -/
theorem expansion_op0 (i : Instr) (v : F32) (s : State) (rest : List HostEvent) :
    ∃ u, exec i { s with op0 := v, pending := rest } = .next u ∧
      core.run 2 { s with pending := .write .word 0x04#5 v :: commandEvent (encode i) :: rest } = .next u := by
  obtain ⟨u, hu⟩ := exec_next i { s with op0 := v, pending := rest }
  exact ⟨u, hu, (run_write (off := 0x04#5) 1 (by decide) (by decide) rfl).trans (run_command 0 rfl hu)⟩

theorem withHost_of_pending {u : State} {q : List HostEvent} (h : u.pending = q) (l : List Word) :
    u.withHost q l = { u with readLog := l } := by
  subst h; rfl

theorem expansion_getParam (i : BitVec 8) (s : State) (rest : List HostEvent) :
    ∃ u, exec (.getParam i) { s with pending := rest } = .next u ∧
      core.run 2 { s with pending := lineEvents (.getParam i) ++ rest } =
        .next { u with readLog := u.res0 :: s.readLog } := by
  obtain ⟨u, hu⟩ := exec_next (.getParam i) { s with pending := rest }
  have hserved := exec_withHost (.read .word 0x0C#5 :: rest) s.readLog hu
  refine ⟨u, hu, Eq.trans (run_command 1 rfl hserved) ?_⟩
  calc core.run 1 (u.withHost (.read .word 0x0C#5 :: rest) s.readLog)
    _ = .next (u.withHost rest (u.res0 :: s.readLog)) := run_read (off := 0x0C#5) 0 (by decide) rfl
    _ = _ := congrArg _ (withHost_of_pending (exec_pending hu) _)

theorem expansion_frame (l r : F32) (s : State) (rest : List HostEvent) :
    ∃ u, exec .frame { s with op0 := l, op1 := r, pending := rest } = .next u ∧
      core.run 5 { s with pending := lineEvents (.frame l r) ++ rest } =
        .next { u with readLog := u.res1 :: u.res0 :: s.readLog } := by
  obtain ⟨u, hu⟩ := exec_next .frame { s with op0 := l, op1 := r, pending := rest }
  have hserved := exec_withHost (.read .word 0x0C#5 :: .read .word 0x10#5 :: rest) s.readLog hu
  refine ⟨u, hu, ?_⟩
  refine Eq.trans (run_write (off := 0x04#5) 4 (by decide) (by decide) rfl) ?_
  refine Eq.trans (run_write (off := 0x08#5) 3 (by decide) (by decide) rfl) ?_
  refine Eq.trans (run_command 2 rfl hserved) ?_
  calc core.run 2 (u.withHost (.read .word 0x0C#5 :: .read .word 0x10#5 :: rest) s.readLog)
    _ = core.run 1 (u.withHost (.read .word 0x10#5 :: rest) (u.res0 :: s.readLog)) :=
      run_read (off := 0x0C#5) 1 (by decide) rfl
    _ = .next (u.withHost rest (u.res1 :: u.res0 :: s.readLog)) := run_read (off := 0x10#5) 0 (by decide) rfl
    _ = _ := congrArg _ (withHost_of_pending (exec_pending hu) _)

/-- Settles O51, command by command. -/
theorem busExpansionRunsTheCommand : Obligations.BusExpansionRunsTheCommand := fun s rest =>
  ⟨run_command 0 rfl (exec_nop _), fun fs => expansion_op0 .init fs s rest, fun fs => expansion_op0 .setFs fs s rest,
    expansion_plain .loadDefaults s rest, fun i v => expansion_op0 (.setParam i) v s rest,
    fun i => expansion_getParam i s rest, fun l r => expansion_frame l r s rest⟩

end Sys2Proof.Machine
end

section
/-! PROOFS. The smoother's output stays in [0.0, 32768.0] (41_smoother.md R65, R67, 10_state.md R32). -/

namespace Sys2Proof.Machine

/-! ### Values that are not negative -/

theorem key_eq_mag {x : F32} (h : fle f0 x = true) : key x = mag x := by
  have hkey := (fle_f0_iff.mp h).2
  unfold key at hkey ⊢
  cases hs : sgn x <;> simp only [hs, Bool.false_eq_true, if_true, if_false] at hkey ⊢
  omega

theorem value_eq_units {x : F32} (h : fle f0 x = true) : value x = units (mag x) := by
  have hvalue : value f0 ≤ value x := (key_le_iff_value_le f0 x).mp (fle_f0_iff.mp h).2
  rw [show value f0 = 0 by decide] at hvalue
  rw [← natAbs_value]
  omega

/-- From zero up, of either sign, a bound compares magnitude fields. -/
theorem within_f0_iff {hi x : F32} (hhi : fle f0 hi = true) :
    within f0 hi x = true ↔ fle f0 x = true ∧ mag x ≤ mag hi := by
  rw [within_iff]
  refine and_congr_right fun hx => ?_
  rw [fle_iff_key (fle_f0_iff.mp hx).1 (fle_f0_iff.mp hhi).1, key_eq_mag hx, key_eq_mag hhi, Nat.cast_le]

theorem within_f0_of_within {lo hi x : F32} (hlo : fle f0 lo = true) (h : within lo hi x = true) :
    within f0 hi x = true := by
  obtain ⟨hlow, hhigh⟩ := within_iff.mp h
  obtain ⟨_, hnan, hkey⟩ := fle_iff.mp hlow
  exact within_iff.mpr ⟨fle_f0_iff.mpr ⟨hnan, (fle_f0_iff.mp hlo).2.trans hkey⟩, hhigh⟩

theorem fle_f0_addFinite {a b : F32} (h : 0 ≤ value a + value b) : fle f0 (addFinite a b) = true := by
  unfold addFinite
  split
  · exact fle_f0_iff.mpr ⟨isNaN_withSign _ _ (Nat.zero_le _), by simp [key_withSign _ (Nat.zero_le _)]⟩
  · rw [decide_eq_false (by omega)]
    exact fle_f0_withSign_false (roundMag_le_inf _ _)

/-- The product of finite values that are not negative is not negative; with a zero of either sign it is a zero. -/
theorem fle_f0_fmul {a b : F32} (ha : isFinite a = true) (hb : isFinite b = true) (ha0 : fle f0 a = true)
    (hb0 : fle f0 b = true) : fle f0 (fmul a b) = true := by
  have hnonneg : 0 ≤ value a * value b := by rw [value_eq_units ha0, value_eq_units hb0]; positivity
  by_cases hzero : value a * value b = 0
  · rw [fmul_of_finite ha hb, value_mul_eq_zero hzero, roundMag_zero]
    exact fle_f0_iff.mpr ⟨isNaN_withSign _ _ (Nat.zero_le _), by simp [key_withSign _ (Nat.zero_le _)]⟩
  · rw [fmul_of_finite ha hb, sgn_bne_eq_of_value_mul_ne_zero hzero, decide_eq_false (by omega)]
    exact fle_f0_withSign_false (roundMag_le_inf _ _)

/-! ### Bounds of rounded results -/

theorem exists_units_two_pow_mul (k m : Nat) : ∃ n, units n = 2 ^ k * units m := by
  obtain ⟨n, hn⟩ := exists_units (signif m) (lastPlace m + k) (signif_lt m)
  exact ⟨n, by rw [hn, units_eq m]; ring⟩

/-- A product is rounded no further than a representable value scaled by a power of two. -/
theorem units_mag_fmul_le {a b : F32} {k m : Nat} (ha : isFinite a = true) (hb : isFinite b = true)
    (h : units (mag a) * units (mag b) ≤ 2 ^ k * units m * 2 ^ 149) :
    units (mag (fmul a b)) ≤ 2 ^ k * units m := by
  obtain ⟨n, hn⟩ := exists_units_two_pow_mul k m
  rw [← hn] at h ⊢
  exact units_le_units (mag_fmul_le ha hb h)

/-- From the second smallest magnitude on, the next one is at most half as large again. -/
theorem two_mul_units_succ_le {n : Nat} (h : 2 ≤ n) : 2 * units (n + 1) ≤ 3 * units n := by
  have hsum := lastPlace_add_signif n
  have hsignif : 2 ≤ signif n := by
    rcases Nat.eq_zero_or_pos (lastPlace n) with h0 | hpos
    · omega
    · exact le_trans (by decide) (le_signif hpos)
  have hsucc : units (n + 1) = (signif n + 1) * 2 ^ lastPlace n := by
    rw [← units_exponent_add (signif_lt n) (fun hpos => (le_signif hpos).trans (Nat.le_succ _)), Nat.succ_eq_add_one,
      ← Nat.add_assoc, hsum]
  rw [hsucc, units_eq n, ← Nat.mul_assoc, ← Nat.mul_assoc]
  exact Nat.mul_le_mul_right _ (by omega)

/-- Rounding an integer takes it at most half again above a representable value that it is not below. -/
theorem exists_units_le_roundMag_le (num : Nat) (h : num ≠ 1) :
    ∃ n, units n ≤ num ∧ 2 * units (roundMag num 1) ≤ 3 * units n := by
  obtain ⟨n, hlow, hhigh, hcases⟩ := exists_roundsBetween num (den := 1) (by decide)
  rw [Nat.mul_one] at hlow hhigh
  refine ⟨n, hlow, ?_⟩
  rcases Nat.lt_or_ge n 2 with hsmall | hlarge
  · have hlt : num < units 2 := hhigh.trans_le (units_le_units hsmall)
    rw [show units 2 = 2 from rfl] at hlt
    rw [show num = 0 by omega, roundMag_zero, units_zero]
    exact Nat.zero_le _
  · have hround : roundMag num 1 ≤ n + 1 := by omega
    exact (Nat.mul_le_mul_left 2 (units_le_units hround)).trans (two_mul_units_succ_le hlarge)

/-! ### The coefficients -/

/-- The quotient of a finite nonzero value is never a NaN, whatever else the divisor is: a zero and an infinity
included. -/
theorem fdiv_eq_withSign {a b : F32} (ha : isFinite a = true) (ha0 : isZero a = false) (hb : isNaN b = false) :
    ∃ m ≤ magInf, fdiv a b = withSign (sgn a != sgn b) m := by
  simp only [fdiv, isNaN_false_of_finite ha, isInf_false_of_finite ha, ha0, hb, Bool.or_self, Bool.false_eq_true,
    if_false]
  split_ifs
  · exact ⟨0, Nat.zero_le _, rfl⟩
  · exact ⟨magInf, le_refl _, rfl⟩
  · exact ⟨_, roundMag_le_inf _ _, rfl⟩

theorem key_fneg (x : F32) : key (fneg x) = -key x := by
  unfold key
  rw [sgn_fneg, mag_fneg]
  cases sgn x <;> simp

/-- SM_COEF's exponent is not positive at any valid rate: the time constant in samples may underflow to zero or overflow
to +inf, and the quotient is then +inf or zero (41_smoother.md R65). -/
theorem fle_smExponent_f0 {fs : F32} (h : isPosFinite fs = true) :
    fle (smExponent Config.smoothTimeMs fs) f0 = true := by
  have htime : isPosFinite (fmul Config.smoothTimeMs Config.msToS) = true := by decide +kernel
  have hpi : sgn Config.twoPi = false := by decide
  unfold smExponent
  rw [fmul_of_finite (isPosFinite_iff.mp htime).1 (isPosFinite_iff.mp h).1, sgn_false_of_isPosFinite htime,
    sgn_false_of_isPosFinite h]
  generalize hd : withSign (false != false) _ = d
  have hdNaN : isNaN d = false := hd ▸ isNaN_withSign _ _ (roundMag_le_inf _ _)
  have hdSgn : sgn d = false := hd ▸ sgn_withSign _ _ (roundMag_le_inf _ _)
  obtain ⟨m, hm, hq⟩ := fdiv_eq_withSign (a := Config.twoPi) (by decide) (by decide) hdNaN
  rw [hq, hpi, hdSgn]
  refine fle_iff.mpr ⟨(isNaN_fneg _).trans (isNaN_withSign _ _ hm), by decide, ?_⟩
  rw [key_fneg, key_withSign _ hm, show key f0 = 0 by decide]
  simp

/-- The coefficients of a smoother that meets its invariant: a weight in [0.0, 1.0] and its rounded complement. -/
theorem Smoother.Fits.weights {fs : F32} {sm : Smoother} (h : sm.Fits fs) (hfs : isPosFinite fs = true) :
    within f0 f1 sm.a = true ∧ sm.b = fsub f1 sm.a := by
  have hcoef := h.coef_eq
  rw [h.t_eq, h.fs_eq] at hcoef
  obtain ⟨ha, hb⟩ := Prod.mk.inj hcoef
  exact ⟨ha ▸ within_expF32 (fle_smExponent_f0 hfs), by rw [hb, ha]⟩

section Complement

variable {a : F32}

theorem value_one_sub (h : within f0 f1 a = true) :
    value f1 + value (fneg a) = (2 ^ 149 - units (mag a) : Nat) := by
  have hle := units_le_units (mag_le_of_mem_unit h)
  rw [show units (mag f1) = 2 ^ 149 by decide] at hle
  rw [value_fneg, value_eq_units (within_iff.mp h).1, show value f1 = 2 ^ 149 by decide]
  omega

theorem one_sub_eq_addFinite (h : within f0 f1 a = true) : fsub f1 a = addFinite f1 (fneg a) :=
  fsub_of_finite (by decide) (isFinite_of_mag_le (mag_le_of_mem_unit h) (by decide))

theorem fle_f0_one_sub (h : within f0 f1 a = true) : fle f0 (fsub f1 a) = true := by
  rw [one_sub_eq_addFinite h]
  exact fle_f0_addFinite (value_one_sub h ▸ Int.natCast_nonneg _)

/-- No weight stands one unit below 1.0: the one before it is 2^-24 away. -/
theorem one_sub_units_ne_one (h : within f0 f1 a = true) : 2 ^ 149 - units (mag a) ≠ 1 := by
  have htop : units (mag f1) = 2 ^ 149 := by decide
  have hbelow : units (mag f1 - 1) = 2 ^ 149 - 2 ^ 125 := by decide
  rcases Nat.lt_or_eq_of_le (mag_le_of_mem_unit h) with hlt | heq
  · have hle := units_le_units (Nat.le_sub_one_of_lt hlt)
    omega
  · rw [heq]; omega

/-- The rounded complement of a weight is at most half as large again as a representable value that, added to the
weight, does not pass 1.0. -/
theorem exists_units_complement (h : within f0 f1 a = true) :
    ∃ n, units n + units (mag a) ≤ 2 ^ 149 ∧ 2 * units (mag (fsub f1 a)) ≤ 3 * units n := by
  obtain ⟨n, hlow, hround⟩ := exists_units_le_roundMag_le _ (one_sub_units_ne_one h)
  have hle := units_le_units (mag_le_of_mem_unit h)
  rw [show units (mag f1) = 2 ^ 149 by decide] at hle
  refine ⟨n, by omega, (Nat.mul_le_mul_left 2 (units_le_units ?_)).trans hround⟩
  rw [one_sub_eq_addFinite h, addFinite, value_one_sub h, Int.natAbs_natCast]
  split
  · rw [mag_withSign _ _ (Nat.zero_le _)]; exact Nat.zero_le _
  · rw [mag_withSign _ _ (roundMag_le_inf _ _)]

end Complement

/-! ### One smoothing step -/

/-- The share of the target: the target is at most 20000, and half as much again is still below 32768. -/
theorem units_fresh_le {target b : F32} {n : Nat} (htarget : mag target ≤ mag Config.cutMax)
    (hb : isFinite b = true) (hn : 2 * units (mag b) ≤ 3 * units n) :
    units (mag (fmul target b)) ≤ 2 ^ 15 * units n := by
  apply units_mag_fmul_le (isFinite_of_mag_le htarget (by decide)) hb
  calc units (mag target) * units (mag b)
    _ ≤ 20000 * 2 ^ 149 * units (mag b) :=
      Nat.mul_le_mul_right _ ((units_le_units htarget).trans_eq (by decide))
    _ ≤ 2 ^ 15 * units n * 2 ^ 149 := by omega

/-- The share of the output before: scaling the weight by 32768 is exact. -/
theorem units_kept_le {z a : F32} (hz : mag z ≤ mag 0x47000000#32) (ha : isFinite a = true) :
    units (mag (fmul z a)) ≤ 2 ^ 15 * units (mag a) := by
  apply units_mag_fmul_le (isFinite_of_mag_le hz (by decide)) ha
  calc units (mag z) * units (mag a)
    _ ≤ 2 ^ 15 * 2 ^ 149 * units (mag a) := Nat.mul_le_mul_right _ ((units_le_units hz).trans_eq (by decide))
    _ = 2 ^ 15 * units (mag a) * 2 ^ 149 := by ring

/-- A smoothing step towards a cutoff in its range stays in [0.0, 32768.0] (41_smoother.md R67): the two shares together
are at most 32768 times a sum that does not pass 1.0. -/
theorem within_smNext {target : F32} {sm : Smoother} (htarget : within Config.cutMin Config.cutMax target = true)
    (ha : within f0 f1 sm.a = true) (hb : sm.b = fsub f1 sm.a) (hz : within f0 0x47000000#32 sm.z = true) :
    within f0 0x47000000#32 (smNext target sm) = true := by
  obtain ⟨htarget0, htargetMag⟩ := (within_f0_iff (by decide)).mp (within_f0_of_within (by decide) htarget)
  obtain ⟨hz0, hzMag⟩ := (within_f0_iff (by decide)).mp hz
  obtain ⟨ha0, haMag⟩ := (within_f0_iff (by decide)).mp ha
  have hb0 : fle f0 sm.b = true := hb ▸ fle_f0_one_sub ha
  have haFin : isFinite sm.a = true := isFinite_of_mag_le haMag (by decide)
  have hbFin : isFinite sm.b = true := hb ▸ isFinite_of_mag_le (mag_one_sub_le ha) (by decide)
  obtain ⟨n, hsum, hn⟩ := exists_units_complement ha
  have hfresh := units_fresh_le htargetMag hbFin (hb ▸ hn)
  have hkept := units_kept_le hzMag haFin
  have hfresh0 := fle_f0_fmul (isFinite_of_mag_le htargetMag (by decide)) hbFin htarget0 hb0
  have hkept0 := fle_f0_fmul (isFinite_of_mag_le hzMag (by decide)) haFin hz0 ha0
  have hmax : units (mag 0x47000000#32) = 2 ^ 15 * 2 ^ 149 := by decide
  have hfreshMag : mag (fmul target sm.b) ≤ mag 0x47000000#32 := le_of_units_le (by omega)
  have hkeptMag : mag (fmul sm.z sm.a) ≤ mag 0x47000000#32 := le_of_units_le (by omega)
  refine (within_f0_iff (by decide)).mpr ⟨fle_f0_fadd hfresh0 hkept0, ?_⟩
  rw [smNext, fadd_of_finite (isFinite_of_mag_le hfreshMag (by decide)) (isFinite_of_mag_le hkeptMag (by decide))]
  apply mag_addFinite_le
  rw [value_eq_units hfresh0, value_eq_units hkept0, hmax]
  omega

/-! ### What moves the smoother's output -/

@[simp] theorem smSetFs_z (fs : F32) (sm : Smoother) : (smSetFs fs sm).z = sm.z := by
  unfold smSetFs
  split <;> rfl

/-- A command leaves `SM.Z`, clears it (INIT) or makes one smoothing step towards `P[0]` (FRAME). -/
theorem exec_smoothed {i : Instr} {s t : State} (h : exec i s = .next t) :
    t.sm.z = s.sm.z ∨ t.sm.z = f0 ∨ t.sm.z = smNext s.params.cutoff s.sm := by
  cases i with
  | nop => cases h; exact .inl rfl
  | init => cases h; exact .inr (.inl (congrArg Smoother.z (loadDefaults_frame _).sm))
  | setFs =>
    rw [exec_setFs] at h
    split at h <;> cases h
    · exact .inl rfl
    · obtain ⟨-, -, -, -, -, -, -, hsm, -⟩ := propagateFs_frame (coerceFs s.op0) s
      exact .inl (by rw [hsm, smSetFs_z])
  | loadDefaults => cases h; exact .inl (congrArg Smoother.z (loadDefaults_frame s).sm)
  | setParam idx => cases h; exact .inl (congrArg Smoother.z (setParam_frame _ _ s).sm)
  | getParam idx => cases h; exact .inl rfl
  | frame =>
    cases h
    obtain ⟨-, -, -, -, -, -, -, hsm, -⟩ := frameFilter_frame (frameControl s)
    rw [hsm]
    rcases frameControl_filters s with ⟨-, hcontrol, -⟩ | ⟨-, hcontrol, -⟩ <;> rw [hcontrol]
    · exact .inl rfl
    · exact .inr (.inr rfl)

theorem memWrite_sm (off : Offset) (w : Word) (s : State) : (memWrite off w s).sm = s.sm := by
  rcases memWrite_cases off w s with e | e | e | ⟨_, e⟩ <;> rw [e] <;> rfl

/-- A step leaves `SM.Z`, clears it or makes one smoothing step towards `P[0]`. -/
theorem step_smoothed {s s' : State} (h : step s = .next s') :
    s'.sm.z = s.sm.z ∨ s'.sm.z = f0 ∨ s'.sm.z = smNext s.params.cutoff s.sm := by
  rcases step_cases h with ⟨-, rfl⟩ | ⟨e, rest, -, hserved⟩
  · exact .inl rfl
  · rcases hserved with ⟨off, -, -, rfl⟩ | ⟨off, w, -, -, -, rfl⟩ | ⟨off, w, i, -, -, -, -, he⟩ |
      ⟨off, w, c, -, -, -, -, rfl⟩ | ⟨-, rfl⟩
    · exact .inl rfl
    · exact .inl (congrArg Smoother.z (memWrite_sm off w _))
    · exact exec_smoothed (s := s.withPending rest) he
    · exact .inl rfl
    · exact .inr (.inl rfl)

/-- Settles O20: what a step can make of `SM.Z` is in range, a smoothing step by the invariant's weights. -/
theorem everyStepKeepsTheSmootherBounded : Obligations.EveryStepKeepsTheSmootherBounded := by
  intro s s' hinv hrange hstep
  obtain ⟨hfs, hparams, hfits, -⟩ := (State.inv_iff s).mp hinv
  obtain ⟨ha, hb⟩ := hfits.weights hfs
  unfold smoothedInRange at hrange ⊢
  rcases step_smoothed hstep with hz | hz | hz <;> rw [hz]
  · exact hrange
  · decide
  · exact within_smNext hparams.cutoff ha hb hrange

end Sys2Proof.Machine
end

section
/-! PROOFS. Bounds of rounded results: a value between two representable ones is rounded to between them. So
differences, products and quotients of intervals with representable ends stay in such intervals (00_scope.md R14). -/

namespace Sys2Proof.Machine

/-! ### Rounded values -/

/-- `x` is the rounding of `num / den` units of 2^-149, with the sign of `num`; a zero has either sign. -/
def IsRounding (num : Int) (den : Nat) (x : F32) : Prop :=
  ∃ s : Bool, (if s then num ≤ 0 else 0 ≤ num) ∧ x = withSign s (roundMag num.natAbs den)

theorem isRounding_addFinite (a b : F32) : IsRounding (value a + value b) 1 (addFinite a b) := by
  unfold addFinite
  split
  · rename_i hzero
    rw [hzero]
    exact ⟨_, by simp, by rw [Int.natAbs_zero, roundMag_zero]⟩
  · refine ⟨_, ?_, rfl⟩
    simp only [decide_eq_true_eq]
    split <;> omega

theorem isRounding_fsub {a b : F32} (ha : isFinite a = true) (hb : isFinite b = true) :
    IsRounding (value a - value b) 1 (fsub a b) := by
  rw [fsub_of_finite ha hb, sub_eq_add_neg, ← value_fneg]
  exact isRounding_addFinite a (fneg b)

/-- A product of signed magnitudes has the operands' signs combined. -/
theorem value_mul_sign (a b : F32) : if sgn a != sgn b then value a * value b ≤ 0 else 0 ≤ value a * value b := by
  have hpos : 0 ≤ (units (mag a) : Int) * units (mag b) := by positivity
  rw [value_eq, value_eq]
  cases sgn a <;> cases sgn b <;> simpa using hpos

theorem isRounding_fmul {a b : F32} (ha : isFinite a = true) (hb : isFinite b = true) :
    IsRounding (value a * value b) (2 ^ 149) (fmul a b) := by
  rw [fmul_of_finite ha hb, ← natAbs_value, ← natAbs_value, ← Int.natAbs_mul]
  exact ⟨_, value_mul_sign a b, rfl⟩

/-- A quotient by a positive value. -/
theorem isRounding_fdiv {a b : F32} (ha : isFinite a = true) (hb : isFinite b = true) (hpos : 0 < value b) :
    IsRounding (value a * 2 ^ 149) (value b).natAbs (fdiv a b) := by
  have hzero : isZero b = false := by rw [Bool.eq_false_iff, Ne, ← value_eq_zero_iff]; omega
  have hsgn : sgn b = false := sgn_false_of_key_pos ((key_lt_iff_value_lt f0 b).mpr hpos)
  rw [fdiv_of_finite ha hb hzero, hsgn, natAbs_value]
  refine ⟨sgn a, ?_, by rw [Int.natAbs_mul, natAbs_value]; simp⟩
  rw [value_eq]
  cases sgn a <;> simp

/-! ### Representable bounds -/

theorem fle_fneg_fneg (x y : F32) : fle (fneg x) (fneg y) = fle y x := by
  have hkey : -key x ≤ -key y ↔ key y ≤ key x := by omega
  simp only [fle, ordered, isNaN_fneg, key_fneg, hkey, Bool.and_comm]

theorem fneg_withSign (s : Bool) {m : Nat} (h : m ≤ magInf) : fneg (withSign s m) = withSign (!s) m := by
  apply ext_sgn_mag
  · rw [sgn_fneg, sgn_withSign _ _ h, sgn_withSign _ _ h]
  · rw [mag_fneg, mag_withSign _ _ h, mag_withSign _ _ h]

section Rounded
variable {num : Int} {den : Nat} {x lo hi : F32}

/-- Rounding is symmetric about zero. -/
theorem IsRounding.fneg (h : IsRounding num den x) : IsRounding (-num) den (fneg x) := by
  obtain ⟨s, hs, rfl⟩ := h
  refine ⟨!s, by cases s <;> simpa using hs, ?_⟩
  rw [fneg_withSign _ (roundMag_le_inf _ _), Int.natAbs_neg]

/-- A rounded value does not pass a representable one that the exact value does not pass: from above. -/
theorem IsRounding.fle_hi (h : IsRounding num den x) (hd : 0 < den) (hhi : isNaN hi = false)
    (hle : num ≤ value hi * den) : fle x hi = true := by
  obtain ⟨s, hs, rfl⟩ := h
  have hround := roundMag_le_inf num.natAbs den
  have hmag : mag hi ≤ magInf := by simpa [isNaN] using hhi
  rw [fle_iff_key (isNaN_withSign _ _ hround) hhi, key_withSign _ hround]
  cases s <;> simp only [Bool.false_eq_true, if_true, if_false] at hs ⊢
  case false =>
    have hpos : 0 ≤ value hi := nonneg_of_mul_nonneg_left (hs.trans hle) (by exact_mod_cast hd)
    have hhi0 : fle f0 hi = true := fle_f0_iff.mpr ⟨hhi, (key_le_iff_value_le f0 hi).mpr hpos⟩
    rw [value_eq_units hhi0] at hle
    rw [key_eq_mag hhi0]
    exact_mod_cast roundMag_le hd (by zify; rwa [abs_of_nonneg hs])
  case true =>
    cases hsgn : sgn hi <;> simp only [value, key, hsgn, Bool.false_eq_true, if_true, if_false] at hle ⊢
    case false => omega
    case true =>
      have hround := le_roundMag (num := num.natAbs) hd hmag (by zify; rw [abs_of_nonpos hs]; linarith)
      omega

/-- From below, by the symmetry about zero. -/
theorem IsRounding.lo_fle (h : IsRounding num den x) (hd : 0 < den) (hlo : isNaN lo = false)
    (hle : value lo * den ≤ num) : fle lo x = true := by
  rw [← fle_fneg_fneg]
  exact h.fneg.fle_hi hd ((isNaN_fneg lo).trans hlo) (by rw [value_fneg]; linarith)

/-- Between representable bounds. -/
theorem IsRounding.within_of_value_bounds (h : IsRounding num den x) (hd : 0 < den) (hlo : isFinite lo = true)
    (hhi : isFinite hi = true) (hbounds : value lo * den ≤ num ∧ num ≤ value hi * den) : within lo hi x = true :=
  within_iff.mpr ⟨h.lo_fle hd (isNaN_false_of_finite hlo) hbounds.1,
    h.fle_hi hd (isNaN_false_of_finite hhi) hbounds.2⟩

end Rounded

/-! ### Intervals -/

/-- `x` is finite, its exact value between those of `lo` and `hi`. -/
structure ValueIn (lo hi x : F32) : Prop where
  finite : isFinite x = true
  lo_le : value lo ≤ value x
  le_hi : value x ≤ value hi

theorem isFinite_iff_key (x : F32) : isFinite x = true ↔ -(magInf : Int) < key x ∧ key x < magInf := by
  rw [isFinite_iff_mag]
  unfold key
  split <;> omega

/-- Between finite ends the comparisons say the same as the values. -/
theorem within_iff_valueIn {lo hi x : F32} (hlo : isFinite lo = true) (hhi : isFinite hi = true) :
    within lo hi x = true ↔ ValueIn lo hi x := by
  constructor
  · intro h
    obtain ⟨hlow, hhigh⟩ := within_iff.mp h
    obtain ⟨-, -, hlow⟩ := fle_iff.mp hlow
    obtain ⟨-, -, hhigh⟩ := fle_iff.mp hhigh
    rw [isFinite_iff_key] at hlo hhi
    exact ⟨(isFinite_iff_key x).mpr (by omega), (key_le_iff_value_le lo x).mp hlow,
      (key_le_iff_value_le x hi).mp hhigh⟩
  · rintro ⟨hfin, hlow, hhigh⟩
    exact within_iff.mpr
      ⟨(comparisons_of_finite hlo hfin).2.1.mpr hlow, (comparisons_of_finite hfin hhi).2.1.mpr hhigh⟩

/-- Below an encoding is at most the one before it. -/
theorem flt_iff_fle_of_key_succ {x lo hi : F32} (hlo : isNaN lo = false) (hhi : isNaN hi = false)
    (h : key hi = key lo + 1) : flt x hi = true ↔ fle x lo = true := by
  rw [flt_iff, fle_iff, h, Int.lt_add_one_iff, and_iff_right hlo, and_iff_right hhi]

/-- Above an encoding is at least the one after it. -/
theorem flt_iff_fle_of_key_pred {x lo hi : F32} (hlo : isNaN lo = false) (hhi : isNaN hi = false)
    (h : key hi = key lo + 1) : flt lo x = true ↔ fle hi x = true := by
  rw [flt_iff, fle_iff, h, Int.add_one_le_iff, and_iff_right hlo, and_iff_right hhi]

/-- The largest finite value. -/
theorem value_le_of_isFinite {x : F32} (h : isFinite x = true) : value x ≤ value 0x7F7FFFFF#32 := by
  obtain ⟨-, hhigh⟩ := (isFinite_iff_key x).mp h
  rw [← key_le_iff_value_le, show key 0x7F7FFFFF#32 = magInf - 1 by decide]
  omega

section Operations
variable {a b c la ha lb hb lo hi : F32}

theorem valueIn_self (h : isFinite c = true) : ValueIn c c c := ⟨h, le_refl _, le_refl _⟩

/-- The difference of two intervals. -/
theorem ValueIn.fsub (hA : ValueIn la ha a) (hB : ValueIn lb hb b) (hlo : isFinite lo = true)
    (hhi : isFinite hi = true) (h : value lo ≤ value la - value hb ∧ value ha - value lb ≤ value hi) :
    ValueIn lo hi (fsub a b) := by
  obtain ⟨hfinA, _, _⟩ := hA
  obtain ⟨hfinB, _, _⟩ := hB
  rw [← within_iff_valueIn hlo hhi]
  exact (isRounding_fsub hfinA hfinB).within_of_value_bounds (by decide) hlo hhi (by push_cast; omega)

/-- The product of two intervals of values that are not negative. -/
theorem ValueIn.fmul (hA : ValueIn la ha a) (hB : ValueIn lb hb b) (hlo : isFinite lo = true)
    (hhi : isFinite hi = true) (hnonneg : 0 ≤ value la ∧ 0 ≤ value lb)
    (h : value lo * 2 ^ 149 ≤ value la * value lb ∧ value ha * value hb ≤ value hi * 2 ^ 149) :
    ValueIn lo hi (fmul a b) := by
  obtain ⟨hfinA, hlowA, hhighA⟩ := hA
  obtain ⟨hfinB, hlowB, hhighB⟩ := hB
  obtain ⟨hla, hlb⟩ := hnonneg
  obtain ⟨hlowBound, hhighBound⟩ := h
  rw [← within_iff_valueIn hlo hhi]
  refine (isRounding_fmul hfinA hfinB).within_of_value_bounds (by decide) hlo hhi ⟨?_, ?_⟩
  · exact hlowBound.trans (mul_le_mul hlowA hlowB hlb (hla.trans hlowA))
  · exact (mul_le_mul hhighA hhighB (hlb.trans hlowB) (hla.trans (hlowA.trans hhighA))).trans hhighBound

/-- The quotient of an interval by a positive constant. -/
theorem ValueIn.fdiv_const (hA : ValueIn la ha a) (hfinC : isFinite c = true) (hlo : isFinite lo = true)
    (hhi : isFinite hi = true)
    (h : 0 < value c ∧ value lo * value c ≤ value la * 2 ^ 149 ∧ value ha * 2 ^ 149 ≤ value hi * value c) :
    ValueIn lo hi (fdiv a c) := by
  obtain ⟨hfinA, hlow, hhigh⟩ := hA
  obtain ⟨hpos, hlowBound, hhighBound⟩ := h
  have habs : ((value c).natAbs : Int) = value c := Int.natAbs_of_nonneg hpos.le
  rw [← within_iff_valueIn hlo hhi]
  refine (isRounding_fdiv hfinA hfinC hpos).within_of_value_bounds (by omega) hlo hhi ?_
  rw [habs]
  constructor <;> omega

end Operations

end Sys2Proof.Machine
end

section
/-! PROOFS. The oscillator (42_oscillator.md): its phase, its increment, and the ranges and values of its waveforms. -/

namespace Sys2Proof.Machine

/-! ### The phase and the increment -/

/-- Settles O36: the sum is not negative, and the fractional part of such a value is in [0.0, 1.0). -/
theorem tickKeepsThePhaseInTheUnitInterval : Obligations.TickKeepsThePhaseInTheUnitInterval :=
  fun _ hphase _ hinc => oscNextPhase_mem_unit hphase hinc

/-- No increment is rounded to 0.0: at every sample rate the least rate is more than one unit of 2^-149 a tick
(42_oscillator.md R72). -/
theorem flt_f0_oscInc {rate fs : F32} (hrate : within Config.rateMin Config.rateMax rate = true)
    (hfs : isPosFinite fs = true) : flt f0 (oscInc rate fs) = true := by
  obtain ⟨hfinFs, hposFs⟩ := isPosFinite_iff.mp hfs
  obtain ⟨hfinRate, hlow, -⟩ := (within_iff_valueIn (by decide) (by decide)).mp hrate
  have hpos : 0 < value fs := (comparisons_of_finite (by decide) hfinFs).1.mp hposFs
  have hmax : value fs ≤ value Config.rateMin * 2 ^ 149 := (value_le_of_isFinite hfinFs).trans (by decide)
  rw [flt_iff_fle_of_key_pred (hi := 0x00000001#32) (by decide) (by decide) (by decide)]
  refine (isRounding_fdiv hfinRate hfinFs hpos).lo_fle (by omega) (by decide) ?_
  rw [show value 0x00000001#32 = 1 by decide, one_mul, Int.natAbs_of_nonneg hpos.le]
  omega

/-- Settles O38: the quotient is a part of the invariant, the rate in the range of `P[3]`, the sample rate valid. -/
theorem incrementIsPositive : Obligations.IncrementIsPositive := by
  intro s hinv
  refine ⟨hinv.osc_inc, ?_⟩
  rw [hinv.osc_inc, hinv.rate_is_param, hinv.osc_fs]
  exact flt_f0_oscInc hinv.params_in_range.lfoFrequency hinv.fs_valid

/-! ### The ranges of the waveforms -/

/-- The largest value below 1.0. -/
def belowOne : F32 := 0x3F7FFFFF#32

theorem flt_f1_iff (x : F32) : flt x f1 = true ↔ fle x belowOne = true :=
  flt_iff_fle_of_key_succ (by decide) (by decide) (by decide)

/-- An interval that ends below 1.0, as the comparisons say it. -/
theorem valueIn_belowOne_iff {lo x : F32} (hlo : isFinite lo = true) :
    ValueIn lo belowOne x ↔ fle lo x = true ∧ flt x f1 = true := by
  rw [flt_f1_iff, ← within_iff, within_iff_valueIn hlo (by decide)]

section Phase
variable {p : F32}

/-- The rising half of Triangle: `(4.0 * p) - 1.0` (42_oscillator.md R76). -/
theorem valueIn_triangle_rising (h : ValueIn f0 fHalf p) : ValueIn fNeg1 f1 (fsub (fmul f4 p) f1) := by
  have hscaled : ValueIn f0 f2 (fmul f4 p) :=
    (valueIn_self (by decide)).fmul h (by decide) (by decide) (by decide) (by decide)
  exact hscaled.fsub (valueIn_self (by decide)) (by decide) (by decide) (by decide)

/-- The falling half of Triangle: `3.0 - (4.0 * p)`. -/
theorem valueIn_triangle_falling (h : ValueIn fHalf f1 p) : ValueIn fNeg1 f1 (fsub f3 (fmul f4 p)) := by
  have hscaled : ValueIn f2 f4 (fmul f4 p) :=
    (valueIn_self (by decide)).fmul h (by decide) (by decide) (by decide) (by decide)
  exact (valueIn_self (by decide)).fsub hscaled (by decide) (by decide) (by decide)

theorem valueIn_waveTriangle (h : ValueIn f0 belowOne p) : ValueIn fNeg1 f1 (waveTriangle p) := by
  have hhalf := (comparisons_of_finite h.finite (b := fHalf) (by decide)).1
  have hone : value p ≤ value f1 := h.le_hi.trans (by decide)
  unfold waveTriangle
  split
  · rename_i hlt
    exact valueIn_triangle_rising ⟨h.finite, h.lo_le, (hhalf.mp hlt).le⟩
  · rename_i hge
    exact valueIn_triangle_falling ⟨h.finite, not_lt.mp (hhalf.not.mp hge), hone⟩

/-- Sine's argument is finite, and T5 bounds the field there (42_oscillator.md R77). -/
theorem within_waveSine (h : ValueIn f0 belowOne p) : within fNeg1 f1 (waveSine p) = true := by
  have hangle : ValueIn f0 Config.twoPi (fmul Config.twoPi p) :=
    (valueIn_self (by decide)).fmul h (by decide) (by decide) (by decide) (by decide)
  exact within_sinF32 hangle.finite

/-- `(2.0 * p) - 1.0`: twice the largest phase is the value before 2.0, exactly (42_oscillator.md R78). -/
theorem valueIn_waveSawtooth (h : ValueIn f0 belowOne p) : ValueIn fNeg1 belowOne (waveSawtooth p) := by
  have hscaled : ValueIn f0 0x3FFFFFFF#32 (fmul f2 p) :=
    (valueIn_self (by decide)).fmul h (by decide) (by decide) (by decide) (by decide)
  exact hscaled.fsub (valueIn_self (by decide)) (by decide) (by decide) (by decide)

end Phase

theorem waveSquare_cases (p : F32) : waveSquare p = fNeg1 ∨ waveSquare p = f1 := by
  unfold waveSquare
  split
  · exact .inr rfl
  · exact .inl rfl

/-- Settles O39, waveform by waveform. -/
theorem waveformsStayInTheirRanges : Obligations.WaveformsStayInTheirRanges := by
  intro p hlow hhigh
  have hp : ValueIn f0 belowOne p := (valueIn_belowOne_iff (by decide)).mpr ⟨hlow, hhigh⟩
  have htriangle := (within_iff_valueIn (by decide) (by decide)).mpr (valueIn_waveTriangle hp)
  exact ⟨within_iff.mp htriangle, within_iff.mp (within_waveSine hp),
    (valueIn_belowOne_iff (by decide)).mp (valueIn_waveSawtooth hp), waveSquare_cases p⟩

/-- Exponential from the field's answer `e` (42_oscillator.md R80). The largest `e` below 16.0 gives 15 - 2^-20, then
30 - 2^-19 exactly, and the quotient by 15.0 is rounded to the value before 2.0. -/
theorem valueIn_exponential {e : F32} (h : ValueIn f1 0x417FFFFF#32 e) :
    ValueIn fNeg1 belowOne (fsub (fdiv (fmul (fsub e f1) f2) Config.expDen) f1) := by
  have hshifted : ValueIn f0 0x416FFFFF#32 (fsub e f1) :=
    h.fsub (valueIn_self (by decide)) (by decide) (by decide) (by decide)
  have hdoubled : ValueIn f0 0x41EFFFFF#32 (fmul (fsub e f1) f2) :=
    hshifted.fmul (valueIn_self (by decide)) (by decide) (by decide) (by decide) (by decide)
  have hquotient : ValueIn f0 0x3FFFFFFF#32 (fdiv (fmul (fsub e f1) f2) Config.expDen) :=
    hdoubled.fdiv_const (by decide) (by decide) (by decide) (by decide)
  exact hquotient.fsub (valueIn_self (by decide)) (by decide) (by decide) (by decide)

/-- Settles O40: an answer below 16.0 is at most the value before it. -/
theorem exponentialStaysInItsRange : Obligations.ExponentialStaysInItsRange := by
  intro p e he hlow hhigh
  rw [flt_iff_fle_of_key_succ (lo := 0x417FFFFF#32) (by decide) (by decide) (by decide)] at hhigh
  have hin : ValueIn f1 0x417FFFFF#32 e :=
    (within_iff_valueIn (by decide) (by decide)).mp (within_iff.mpr ⟨hlow, hhigh⟩)
  rw [← valueIn_belowOne_iff (by decide)]
  subst he
  exact valueIn_exponential hin

/-! ### The values at the quarter phases -/

/-- Settles O41, by evaluating each waveform: four times a quarter phase is an integer, where T3 settles the field of
Exponential. -/
theorem waveformValuesAtQuarterPhases : Obligations.WaveformValuesAtQuarterPhases :=
  ⟨by decide +kernel, by decide +kernel, by decide +kernel, by decide +kernel⟩

end Sys2Proof.Machine
end

section
/-! PROOFS. The filters (43_filter.md): what the left one cannot reach, and the silence of a filter at rest. -/

namespace Sys2Proof.Machine

/-! ### The two channels -/

/-- Two states that agree on everything FRAME works with outside the left channel: the right input and filter, the
oscillator, the smoother and the parameters (43_filter.md R88). -/
structure SameButLeft (s t : State) : Prop where
  op1 : s.op1 = t.op1
  params : s.params = t.params
  sm : s.sm = t.sm
  osc : s.osc = t.osc
  fr : s.fr = t.fr

section Channels
variable {s t : State}

/-- The modulated cutoff is computed from the parameters and the smoother alone. -/
theorem SameButLeft.modCutoff (h : SameButLeft s t) (lfo : F32) : modCutoff lfo s = modCutoff lfo t := by
  simp only [Machine.modCutoff, h.params, h.sm]

/-- The control part pushes the same cutoff to the right filter, or to none in both states. -/
theorem SameButLeft.frameControl (h : SameButLeft s t) : SameButLeft (frameControl s) (frameControl t) := by
  have htick : SameButLeft (s.withOsc (oscTick s.osc)) (t.withOsc (oscTick t.osc)) :=
    ⟨h.op1, h.params, h.sm, congrArg oscTick h.osc, h.fr⟩
  unfold Machine.frameControl
  rw [h.params]
  split
  · have hcutoff := htick.modCutoff (oscTickValue t.osc)
    rw [h.osc] at hcutoff ⊢
    constructor <;> simp [modulate, hcutoff, h.op1, h.params, h.sm, h.fr]
  · exact htick

/-- The filter part runs the right filter on the right input, and its result is the right filter's output. -/
theorem SameButLeft.frameFilter (h : SameButLeft s t) :
    SameButLeft (frameFilter s) (frameFilter t) ∧ (frameFilter s).res1 = (frameFilter t).res1 := by
  have hout : fltOutput s.fr s.op1 = fltOutput t.fr t.op1 := congrArg₂ fltOutput h.fr h.op1
  have hhist : fltProcess s.fr s.op1 = fltProcess t.fr t.op1 := congrArg₂ fltProcess h.fr h.op1
  exact ⟨⟨h.op1, h.params, h.sm, h.osc, hhist⟩, hout⟩

end Channels

/-- Settles O33: the two states agree outside the left channel, and both parts of FRAME keep it so, whatever the left
channel holds. -/
theorem leftChannelCannotReachTheRest : Obligations.LeftChannelCannotReachTheRest := by
  intro s x x1 x2 y1 y2
  have hsame : SameButLeft { s with op0 := x, fl := { s.fl with x1 := x1, x2 := x2, y1 := y1, y2 := y2 } } s :=
    ⟨rfl, rfl, rfl, rfl, rfl⟩
  obtain ⟨⟨-, hparams, hsm, hosc, hfr⟩, hres1⟩ := hsame.frameControl.frameFilter
  exact ⟨_, _, exec_frame _, exec_frame _, hfr, hres1, hosc, hsm, hparams⟩

/-! ### Intervals of sums, quotients and minima -/

section Operations
variable {a b la ha lb hb lo hi : F32}

theorem isRounding_fadd (ha : isFinite a = true) (hb : isFinite b = true) :
    IsRounding (value a + value b) 1 (fadd a b) := by
  rw [fadd_of_finite ha hb]
  exact isRounding_addFinite a b

/-- The sum of two intervals. -/
theorem ValueIn.fadd (hA : ValueIn la ha a) (hB : ValueIn lb hb b) (hlo : isFinite lo = true)
    (hhi : isFinite hi = true) (h : value lo ≤ value la + value lb ∧ value ha + value hb ≤ value hi) :
    ValueIn lo hi (fadd a b) := by
  obtain ⟨hfinA, _, _⟩ := hA
  obtain ⟨hfinB, _, _⟩ := hB
  rw [← within_iff_valueIn hlo hhi]
  exact (isRounding_fadd hfinA hfinB).within_of_value_bounds (by decide) hlo hhi (by push_cast; omega)

/-- The quotient of an interval by an interval of positive values, in an interval around zero: the least divisor gives
the widest quotients. -/
theorem ValueIn.fdiv (hA : ValueIn la ha a) (hB : ValueIn lb hb b) (hlo : isFinite lo = true)
    (hhi : isFinite hi = true) (hpos : 0 < value lb) (hzero : value lo ≤ 0 ∧ 0 ≤ value hi)
    (h : value lo * value lb ≤ value la * 2 ^ 149 ∧ value ha * 2 ^ 149 ≤ value hi * value lb) :
    ValueIn lo hi (fdiv a b) := by
  obtain ⟨hfinA, hlowA, hhighA⟩ := hA
  obtain ⟨hfinB, hlowB, -⟩ := hB
  have hposB : 0 < value b := hpos.trans_le hlowB
  have hwidest : value lo * value b ≤ value lo * value lb ∧ value hi * value lb ≤ value hi * value b :=
    ⟨mul_le_mul_of_nonpos_left hlowB hzero.1, mul_le_mul_of_nonneg_left hlowB hzero.2⟩
  rw [← within_iff_valueIn hlo hhi]
  refine (isRounding_fdiv hfinA hfinB hposB).within_of_value_bounds (by omega) hlo hhi ?_
  rw [Int.natAbs_of_nonneg hposB.le]
  omega

/-- The lesser of two values is at most each of them. -/
theorem valueIn_fmin (hA : ValueIn lo ha a) (hB : ValueIn lo hb b) :
    ValueIn lo a (fmin a b) ∧ ValueIn lo b (fmin a b) := by
  have hlt := (comparisons_of_finite hB.finite hA.finite).1
  unfold fmin
  split
  · rename_i h
    exact ⟨⟨hB.finite, hB.lo_le, (hlt.mp h).le⟩, ⟨hB.finite, hB.lo_le, le_refl _⟩⟩
  · rename_i h
    exact ⟨⟨hA.finite, hA.lo_le, le_refl _⟩, ⟨hA.finite, hA.lo_le, not_lt.mp (hlt.not.mp h)⟩⟩

theorem ValueIn.widen (h : ValueIn la ha a) (hle : value lo ≤ value la ∧ value ha ≤ value hi) : ValueIn lo hi a :=
  ⟨h.finite, hle.1.trans h.lo_le, h.le_hi.trans hle.2⟩

theorem ValueIn.fle_f0 (h : ValueIn f0 hi a) : fle f0 a = true :=
  (comparisons_of_finite (by decide) h.finite).2.1.mpr h.lo_le

end Operations

/-! ### The coefficients (43_filter.md R82) -/

section Coefficients
variable {fc r fs cw sw q : F32}

/-- The effective cutoff is at most the cutoff and at most the sample rate, however small that is. -/
theorem valueIn_effectiveCutoff (hfc : ValueIn f0 Config.cutMax fc) (hfs : ValueIn f0 fs fs) :
    ValueIn f0 Config.cutMax (fmin fc (fmul Config.nyqGuard fs)) ∧ ValueIn f0 fs (fmin fc (fmul Config.nyqGuard fs)) := by
  have hfs0 : 0 ≤ value fs := hfs.lo_le
  have hguard : ValueIn f0 fs (fmul Config.nyqGuard fs) := by
    refine (valueIn_self (by decide)).fmul hfs (by decide) hfs.finite (by decide) ⟨by decide, ?_⟩
    rw [mul_comm]
    exact mul_le_mul_of_nonneg_left (by decide) hfs0
  obtain ⟨hleFc, hleGuard⟩ := valueIn_fmin hfc hguard
  exact ⟨hleFc.widen ⟨le_refl _, hfc.le_hi⟩, hleGuard.widen ⟨le_refl _, hguard.le_hi⟩⟩

/-- TWO_PI is less than 8.0, and scaling by a power of two is exact: the product is rounded no further. -/
theorem units_mag_fmul_twoPi_le {x : F32} (h : isFinite x = true) :
    units (mag (fmul Config.twoPi x)) ≤ 2 ^ 3 * units (mag x) := by
  apply units_mag_fmul_le (by decide) h
  rw [Nat.mul_right_comm]
  exact Nat.mul_le_mul_right _ (by decide)

/-- At any valid rate the angular frequency is in [0.0, 8.0]. -/
theorem valueIn_fltOmega (hfc : within Config.cutMin Config.cutMax fc = true) (hfs : isPosFinite fs = true) :
    ValueIn f0 0x41000000#32 (fltOmega fc fs) := by
  obtain ⟨hfinFs, hposFs⟩ := isPosFinite_iff.mp hfs
  have hpos : 0 < value fs := (comparisons_of_finite (by decide) hfinFs).1.mp hposFs
  have hcut : ValueIn f0 Config.cutMax fc :=
    (within_iff_valueIn (by decide) (by decide)).mp (within_f0_of_within (by decide) hfc)
  obtain ⟨hleMax, hleFs⟩ := valueIn_effectiveCutoff hcut ⟨hfinFs, hpos.le, le_refl _⟩
  have hangle : ValueIn f0 0x48000000#32 (fmul Config.twoPi (fmin fc (fmul Config.nyqGuard fs))) :=
    (valueIn_self (by decide)).fmul hleMax (by decide) (by decide) (by decide) (by decide)
  have hangleFs : value (fmul Config.twoPi (fmin fc (fmul Config.nyqGuard fs))) ≤ 8 * value fs := by
    have hround := units_mag_fmul_twoPi_le hleMax.finite
    have hle := hleFs.le_hi
    rw [value_eq_units hleFs.fle_f0] at hle
    rw [value_eq_units hangle.fle_f0]
    omega
  rw [← within_iff_valueIn (by decide) (by decide)]
  refine (isRounding_fdiv hangle.finite hfinFs hpos).within_of_value_bounds (by omega) (by decide) (by decide) ?_
  have hangle0 := hangle.lo_le
  rw [Int.natAbs_of_nonneg hpos.le, show value 0x41000000#32 = 8 * 2 ^ 149 by decide]
  rw [show value f0 = 0 by decide] at hangle0 ⊢
  constructor <;> omega

/-- Q is in [Q_MIN, 11.0]. -/
theorem valueIn_fltQ (hr : within Config.resMin Config.resMax r = true) :
    ValueIn Config.qMin 0x41300000#32 (fltQ r) := by
  have hres : ValueIn Config.resMin Config.resMax r := (within_iff_valueIn (by decide) (by decide)).mp hr
  have hspan : ValueIn f0 Config.qSpan (fmul r Config.qSpan) :=
    hres.fmul (valueIn_self (by decide)) (by decide) (by decide) (by decide) (by decide)
  exact (valueIn_self (by decide)).fadd hspan (by decide) (by decide) (by decide)

/-- `alpha` is in [-0.75, 0.75]: a sine over at least twice Q_MIN, about 1.414. -/
theorem valueIn_alpha (hsw : ValueIn fNeg1 f1 sw) (hq : ValueIn Config.qMin 0x41300000#32 q) :
    ValueIn 0xBF400000#32 0x3F400000#32 (fdiv sw (fmul f2 q)) := by
  have htwice : ValueIn 0x3FB504F3#32 0x41B00000#32 (fmul f2 q) :=
    (valueIn_self (by decide)).fmul hq (by decide) (by decide) (by decide) (by decide)
  exact hsw.fdiv htwice (by decide) (by decide) (by decide) (by decide) (by decide)

/-- `a0` is in [0.25, 2.0], clear of zero. -/
theorem valueIn_a0 {alpha : F32} (h : ValueIn 0xBF400000#32 0x3F400000#32 alpha) :
    ValueIn 0x3E800000#32 f2 (fadd f1 alpha) :=
  (valueIn_self (by decide)).fadd h (by decide) (by decide) (by decide)

theorem valueIn_b1 (hcw : ValueIn fNeg1 f1 cw) : ValueIn f0 f2 (fsub f1 cw) :=
  (valueIn_self (by decide)).fsub hcw (by decide) (by decide) (by decide)

theorem valueIn_b0 (hcw : ValueIn fNeg1 f1 cw) : ValueIn f0 f1 (fmul (fsub f1 cw) fHalf) :=
  (valueIn_b1 hcw).fmul (valueIn_self (by decide)) (by decide) (by decide) (by decide) (by decide)

/-- `-2.0 * cw`: the cosine has either sign. -/
theorem valueIn_a1 (hcw : ValueIn fNeg1 f1 cw) : ValueIn fNeg2 f2 (fmul fNeg2 cw) := by
  obtain ⟨hfin, hlow, hhigh⟩ := hcw
  rw [show value fNeg1 = -2 ^ 149 by decide] at hlow
  rw [show value f1 = 2 ^ 149 by decide] at hhigh
  rw [← within_iff_valueIn (by decide) (by decide)]
  refine (isRounding_fmul (by decide) hfin).within_of_value_bounds (by decide) (by decide) (by decide) ?_
  rw [show value fNeg2 = -2 ^ 150 by decide, show value f2 = 2 ^ 150 by decide]
  push_cast
  constructor <;> omega

/-- `1.0 - alpha`. -/
theorem valueIn_a2 {alpha : F32} (h : ValueIn 0xBF400000#32 0x3F400000#32 alpha) : ValueIn f0 f2 (fsub f1 alpha) :=
  (valueIn_self (by decide)).fsub h (by decide) (by decide) (by decide)

section Normalised
variable {n a0 : F32} (hn : ValueIn fNeg2 f2 n) (ha0 : ValueIn 0x3E800000#32 f2 a0)
include hn ha0

/-- The division by `a0` leaves each numerator, at most 2.0 in magnitude, at most 8.0 in magnitude. -/
theorem isFinite_normalised : isFinite (fdiv n a0) = true := by
  have hquotient : ValueIn 0xC1000000#32 0x41000000#32 (fdiv n a0) :=
    hn.fdiv ha0 (by decide) (by decide) (by decide) (by decide) (by decide)
  exact hquotient.finite

/-- The division by `a0` keeps the sign, of a zero too. -/
theorem sgn_normalised : sgn (fdiv n a0) = sgn n := by
  have hpos : value f0 < value a0 := lt_of_lt_of_le (by decide) ha0.lo_le
  have hzero : isZero a0 = false := by rw [Bool.eq_false_iff, Ne, ← value_eq_zero_iff]; exact hpos.ne'
  have hsgn : sgn a0 = false := sgn_false_of_key_pos ((key_lt_iff_value_lt f0 a0).mpr hpos)
  rw [fdiv_of_finite hn.finite ha0.finite hzero, sgn_withSign _ _ (roundMag_le_inf _ _), hsgn, Bool.bne_false]

end Normalised

/-- `1.0 - cw` never carries the minus sign, not even as a zero. -/
theorem sgn_b1 (hcw : ValueIn fNeg1 f1 cw) : sgn (fsub f1 cw) = false := by
  have hle := hcw.le_hi
  rw [fsub_of_finite (by decide) hcw.finite, addFinite, value_fneg]
  split
  · exact sgn_withSign _ _ (Nat.zero_le _)
  · rw [sgn_withSign _ _ (roundMag_le_inf _ _), decide_eq_false_iff_not]
    omega

theorem sgn_b0 (hcw : ValueIn fNeg1 f1 cw) : sgn (fmul (fsub f1 cw) fHalf) = false := by
  rw [fmul_of_finite (valueIn_b1 hcw).finite (by decide), sgn_withSign _ _ (roundMag_le_inf _ _), sgn_b1 hcw]
  decide

/-- No coefficient is a NaN or an infinity. -/
structure Coefs.Finite (c : Coefs) : Prop where
  b0 : isFinite c.b0 = true
  b1 : isFinite c.b1 = true
  b2 : isFinite c.b2 = true
  a1 : isFinite c.a1 = true
  a2 : isFinite c.a2 = true

/-- From a cosine and a sine in [-1.0, 1.0] and a Q in its range: finite coefficients, and B0 without the minus sign. -/
theorem fltCoefOf_finite (hcw : ValueIn fNeg1 f1 cw) (hsw : ValueIn fNeg1 f1 sw)
    (hq : ValueIn Config.qMin 0x41300000#32 q) :
    (fltCoefOf cw sw q).Finite ∧ sgn (fltCoefOf cw sw q).b0 = false := by
  have halpha := valueIn_alpha hsw hq
  have ha0 := valueIn_a0 halpha
  have hb0 : ValueIn fNeg2 f2 (fmul (fsub f1 cw) fHalf) := (valueIn_b0 hcw).widen (by decide)
  have hfinB0 := isFinite_normalised hb0 ha0
  have hfinB1 := isFinite_normalised ((valueIn_b1 hcw).widen (by decide)) ha0
  have hfinA1 := isFinite_normalised (valueIn_a1 hcw) ha0
  have hfinA2 := isFinite_normalised ((valueIn_a2 halpha).widen (by decide)) ha0
  exact ⟨⟨hfinB0, hfinB1, hfinB0, hfinA1, hfinA2⟩, (sgn_normalised hb0 ha0).trans (sgn_b0 hcw)⟩

end Coefficients

/-! ### Silence (43_filter.md R86, R89) -/

theorem fmul_f0 {c : F32} (h : isFinite c = true) : fmul c f0 = withSign (sgn c) 0 := by
  rw [fmul_of_finite h (by decide), show units (mag f0) = 0 by decide, Nat.mul_zero, roundMag_zero,
    show sgn f0 = false by decide, Bool.bne_false]

/-- +0.0 absorbs a zero of either sign. -/
theorem f0_absorbs_zero (sign : Bool) : fadd f0 (withSign sign 0) = f0 ∧ fsub f0 (withSign sign 0) = f0 := by
  cases sign <;> decide +kernel

/-- At rest the five products are zeros, and the first is +0.0 where B0 does not carry the minus sign. -/
theorem fltOutput_at_rest {fs cut res : F32} {c : Coefs} (hc : c.Finite) (hb0 : sgn c.b0 = false) :
    fltOutput ⟨fs, cut, res, c, f0, f0, f0, f0⟩ f0 = f0 := by
  have hfirst : fmul c.b0 f0 = f0 := by rw [fmul_f0 hc.b0, hb0]; rfl
  simp only [fltOutput, hfirst, fmul_f0 hc.b1, fmul_f0 hc.b2, fmul_f0 hc.a1, fmul_f0 hc.a2, f0_absorbs_zero]

/-- Settles O42: the angular frequency is finite, so T5 bounds the cosine and the sine, and the coefficients they give
are finite with a B0 that does not carry the minus sign. -/
theorem silenceGivesSilence : Obligations.SilenceGivesSilence := by
  intro fc r fs hfc hr hfs
  have homega := (valueIn_fltOmega hfc hfs).finite
  have hcw := (within_iff_valueIn (by decide) (by decide)).mp (within_cosF32 homega)
  have hsw := (within_iff_valueIn (by decide) (by decide)).mp (within_sinF32 homega)
  have hq := valueIn_fltQ hr
  obtain ⟨hfinite, hsgn⟩ := fltCoefOf_finite hcw hsw hq
  exact fltOutput_at_rest hfinite hsgn

end Sys2Proof.Machine
end

section
/-! PROOFS. The engine commands (44_engine_commands.md): what a step runs, and the whole next state of NOP, INIT,
SET_FS, LOAD_DEFAULTS, SET_PARAM and GET_PARAM. -/

namespace Sys2Proof.Machine

/-! ### What a step runs -/

theorem runCommand_of_decode {w : Word} {i : Instr} (h : decode w = .ok i) (s : State) : runCommand w s = exec i s := by
  rw [runCommand, h]

/-- The write that `withFetchWord` puts at the head of the queue carries the word, all 32 bits of it. -/
theorem withFetchWord_pending (s : State) (w : Word) :
    (s.withFetchWord 32 w.toNat).pending = commandEvent w :: s.pending := by
  rw [State.withFetchWord, fetchNext, Nat.mod_eq_of_lt w.isLt, BitVec.ofNat_toNat, BitVec.setWidth_eq,
    State.withPending_pending]

/-- Settles O7: a CMD write at the head of the queue runs its word, and `withFetchWord` puts one there. -/
theorem stepRunsTheDecodedCommand : Obligations.StepRunsTheDecodedCommand :=
  ⟨fun _ _ _ _ hpending hdecode _ => (step_command hpending).trans (runCommand_of_decode hdecode _),
    fun s w _ hdecode => (step_command (withFetchWord_pending s w)).trans (runCommand_of_decode hdecode _)⟩

/-- Settles O22: only the encoder's word for a command decodes to it. -/
theorem nopChangesNothing : Obligations.NopChangesNothing :=
  ⟨fun _ => decode_ok_iff, ⟨.indexNonzero, rfl⟩, ⟨.reservedNonzero, rfl⟩, exec_nop⟩

/-! ### SET_PARAM -/

theorem setParam_of_le {i : Nat} (h : Config.numParams ≤ i) (v : F32) (s : State) : setParam i v s = s :=
  if_pos h

theorem setParam_of_isNaN {v : F32} (h : isNaN v = true) (i : Nat) (s : State) : setParam i v s = s := by
  rcases setParam_cases i v s with ⟨-, hkeep⟩ | ⟨hv, -⟩
  · exact hkeep
  · cases h.symm.trans hv

section Setters
variable {v : F32} (hv : isNaN v = false) (s : State)
include hv

/-- A value that is no NaN goes to the setter of its index. -/
theorem setParam_of_not_isNaN :
    setParam 0 v s = setCutoff v s ∧ setParam 1 v s = setResonance v s ∧ setParam 2 v s = setWaveform v s ∧
      setParam 3 v s = setLfoRate v s ∧ setParam 4 v s = setModDepth v s := by
  simp [setParam, Config.numParams, hv]

theorem setCutoff_eq :
    setCutoff v s =
      { s with
        params := { s.params with cutoff := clamp v Config.cutMin Config.cutMax }
        fl := { s.fl with cut := clamp v Config.cutMin Config.cutMax
                          coef := fltCoef (clamp v Config.cutMin Config.cutMax) s.fl.res s.fl.fs }
        fr := { s.fr with cut := clamp v Config.cutMin Config.cutMax
                          coef := fltCoef (clamp v Config.cutMin Config.cutMax) s.fr.res s.fr.fs } } := by
  simp only [setCutoff, fltSetCutoff_clamp _ hv]
  rfl

theorem setResonance_eq :
    setResonance v s =
      { s with
        params := { s.params with resonance := clamp v Config.resMin Config.resMax }
        fl := { s.fl with res := clamp v Config.resMin Config.resMax
                          coef := fltCoef s.fl.cut (clamp v Config.resMin Config.resMax) s.fl.fs }
        fr := { s.fr with res := clamp v Config.resMin Config.resMax
                          coef := fltCoef s.fr.cut (clamp v Config.resMin Config.resMax) s.fr.fs } } := by
  simp only [setResonance, fltSetRes_clamp _ hv]
  rfl

theorem setWaveform_eq :
    setWaveform v s =
      { s with
        params := { s.params with lfoWaveform := clamp v Config.waveMin Config.waveMax }
        osc := { s.osc with wave := waveOf (clamp v Config.waveMin Config.waveMax) } } := by
  simp only [setWaveform, oscSetWave_clamp _ hv]
  rfl

theorem setLfoRate_eq :
    setLfoRate v s =
      { s with
        params := { s.params with lfoFrequency := clamp v Config.rateMin Config.rateMax }
        osc := { s.osc with rate := clamp v Config.rateMin Config.rateMax
                            inc := oscInc (clamp v Config.rateMin Config.rateMax) s.osc.fs } } := by
  simp only [setLfoRate, oscSetRate_clamp _ hv]
  rfl

end Setters

/-- Settles O27: a value that is no NaN goes to its setter, which clamps it once and forwards it. -/
theorem setParamStoresAndForwards : Obligations.SetParamStoresAndForwards := by
  refine ⟨fun s idx h => congrArg _ (setParam_of_le h s.op0 s),
    fun s idx h => congrArg _ (setParam_of_isNaN h idx.toNat s), fun s hv => ?_⟩
  obtain ⟨hcutoff, hresonance, hwaveform, hrate, hdepth⟩ := setParam_of_not_isNaN hv s
  refine ⟨?_, ?_, ?_, ?_, ?_⟩ <;> rintro _ rfl
  · exact congrArg _ (hcutoff.trans (setCutoff_eq hv s))
  · exact congrArg _ (hresonance.trans (setResonance_eq hv s))
  · exact congrArg _ (hwaveform.trans (setWaveform_eq hv s))
  · exact congrArg _ (hrate.trans (setLfoRate_eq hv s))
  · exact congrArg _ hdepth

/-! ### GET_PARAM -/

theorem ParamFile.get_of_le {i : Nat} (h : Config.numParams ≤ i) (p : ParamFile) : p.get i = none := by
  obtain ⟨j, rfl⟩ := Nat.exists_eq_add_of_le' h
  rfl

/-- `P[IDX]` by the value of IDX. -/
theorem getParam_eq (idx : BitVec 8) (s : State) :
    getParam idx.toNat s =
      if idx = 0#8 then s.params.cutoff else if idx = 1#8 then s.params.resonance
      else if idx = 2#8 then s.params.lfoWaveform else if idx = 3#8 then s.params.lfoFrequency
      else if idx = 4#8 then s.params.lfoModDepth else f0 := by
  split_ifs with h0 h1 h2 h3 h4
  · rw [h0]; rfl
  · rw [h1]; rfl
  · rw [h2]; rfl
  · rw [h3]; rfl
  · rw [h4]; rfl
  · have hle : Config.numParams ≤ idx.toNat := by unfold Config.numParams; bv_omega
    rw [getParam, ParamFile.get_of_le hle]
    rfl

/-- Settles O28: GET_PARAM writes RES0 only. -/
theorem getParamReadsTheStoredValue : Obligations.GetParamReadsTheStoredValue := by
  intro s idx
  rw [exec_getParam, getParam_eq]
  rfl

/-! ### SET_PARAM, then GET_PARAM -/

/-- The five parameters and the ends of their ranges (10_state.md R31). -/
theorem paramRange_cases {i : Nat} {lo hi : F32} (h : paramRange i = some (lo, hi)) :
    (i = 0 ∧ lo = Config.cutMin ∧ hi = Config.cutMax) ∨ (i = 1 ∧ lo = Config.resMin ∧ hi = Config.resMax) ∨
    (i = 2 ∧ lo = Config.waveMin ∧ hi = Config.waveMax) ∨ (i = 3 ∧ lo = Config.rateMin ∧ hi = Config.rateMax) ∨
    (i = 4 ∧ lo = Config.depthMin ∧ hi = Config.depthMax) := by
  unfold paramRange at h
  split at h <;> cases h <;> simp

theorem fle_of_paramRange {i : Nat} {lo hi : F32} (h : paramRange i = some (lo, hi)) : fle lo hi = true := by
  rcases paramRange_cases h with ⟨-, rfl, rfl⟩ | ⟨-, rfl, rfl⟩ | ⟨-, rfl, rfl⟩ | ⟨-, rfl, rfl⟩ | ⟨-, rfl, rfl⟩
  all_goals decide

/-- A parameter that has a range has a value, and GET_PARAM reads it. -/
theorem get_eq_some_getParam {i : Nat} {lo hi : F32} (h : paramRange i = some (lo, hi)) (s : State) :
    s.params.get i = some (getParam i s) := by
  rcases paramRange_cases h with ⟨rfl, -⟩ | ⟨rfl, -⟩ | ⟨rfl, -⟩ | ⟨rfl, -⟩ | ⟨rfl, -⟩ <;> rfl

/-- What a SET_PARAM stored is the clamped value. -/
theorem getParam_setParam {i : Nat} {lo hi v : F32} (h : paramRange i = some (lo, hi)) (hv : isNaN v = false)
    (s : State) : getParam i (setParam i v s) = clamp v lo hi := by
  obtain ⟨hcutoff, hresonance, hwaveform, hrate, hdepth⟩ := setParam_of_not_isNaN hv s
  rcases paramRange_cases h with ⟨rfl, rfl, rfl⟩ | ⟨rfl, rfl, rfl⟩ | ⟨rfl, rfl, rfl⟩ | ⟨rfl, rfl, rfl⟩ | ⟨rfl, rfl, rfl⟩
  · rw [hcutoff]; rfl
  · rw [hresonance]; rfl
  · rw [hwaveform]; rfl
  · rw [hrate]; rfl
  · rw [hdepth]; rfl

theorem clamp_of_flt_lo {v lo hi : F32} (h : flt v lo = true) : clamp v lo hi = lo := if_pos h

/-- A value above the range is not below it. -/
theorem clamp_of_flt_hi {v lo hi : F32} (hle : fle lo hi = true) (h : flt hi v = true) : clamp v lo hi = hi := by
  obtain ⟨-, -, hlohi⟩ := fle_iff.mp hle
  obtain ⟨-, -, hhiv⟩ := flt_iff.mp h
  have hlow : ¬ flt v lo = true := fun hlt => by
    obtain ⟨-, -, hvlo⟩ := flt_iff.mp hlt
    omega
  rw [clamp, if_neg hlow, if_pos h]

/-- Settles O29: a comparison that holds of `v` says that it is no NaN, so its clamped value is what comes back. -/
theorem setThenGetRoundTrip : Obligations.SetThenGetRoundTrip := by
  intro s idx v lo hi hrange
  refine ⟨_, _, exec_setParam _ _, exec_getParam _ _, fun hlow hhigh => ?_, fun hbelow => ?_, fun habove => ?_,
    fun hnan => ?_⟩
  · obtain ⟨-, hv, -⟩ := fle_iff.mp hlow
    exact (getParam_setParam hrange hv _).trans (clamp_of_bounds hlow hhigh)
  · obtain ⟨hv, -, -⟩ := flt_iff.mp hbelow
    exact (getParam_setParam hrange hv _).trans (clamp_of_flt_lo hbelow)
  · obtain ⟨-, hv, -⟩ := flt_iff.mp habove
    exact (getParam_setParam hrange hv _).trans (clamp_of_flt_hi (fle_of_paramRange hrange) habove)
  · rw [setParam_of_isNaN hnan]
    exact (get_eq_some_getParam hrange _).symm

/-! ### LOAD_DEFAULTS and INIT -/

/-- The default values are no NaN and stand inside their ranges, so each is stored as it is. -/
theorem loadDefaults_eq (s : State) :
    loadDefaults s =
      { s with
        params := ⟨Config.cutDefault, Config.resDefault, Config.waveDefault, Config.rateDefault, Config.depthDefault⟩
        osc := { s.osc with wave := .triangle, rate := Config.rateDefault, inc := oscInc Config.rateDefault s.osc.fs }
        fl := { s.fl with cut := Config.cutDefault, res := Config.resDefault,
                          coef := fltCoef Config.cutDefault Config.resDefault s.fl.fs }
        fr := { s.fr with cut := Config.cutDefault, res := Config.resDefault,
                          coef := fltCoef Config.cutDefault Config.resDefault s.fr.fs } } := by
  rw [loadDefaults, setParam_all _ _ _ _ _ s isNaN_cutDefault isNaN_resDefault isNaN_waveDefault isNaN_rateDefault
    isNaN_depthDefault clamp_cutDefault clamp_resDefault clamp_waveDefault clamp_rateDefault clamp_depthDefault,
    waveOf_waveDefault]

/-- Settles O26: the five setters in index order, each with a default value. -/
theorem loadDefaultsSetsTheDefaultProgram : Obligations.LoadDefaultsSetsTheDefaultProgram := by
  intro s
  rw [exec_loadDefaults, loadDefaults_eq]
  rfl

/-- Settles O23: the construction already holds the default program, which LOAD_DEFAULTS then loads at its rate. -/
theorem initRebuildsTheBlock : Obligations.InitRebuildsTheBlock := by
  rintro s _ rfl
  rw [exec_init, loadDefaults_eq]
  rfl

/-! ### SET_FS -/

section SetFs
variable {fs : F32} (hfs : isPosFinite fs = true)
include hfs

theorem fltSetFs_of_isPosFinite (f : Filter) :
    fltSetFs fs f = { f with fs := fs, coef := fltCoef f.cut f.res fs } := by
  rw [fltSetFs, coerceFs_of_isPosFinite hfs]

theorem smSetFs_of_isPosFinite (sm : Smoother) :
    smSetFs fs sm =
      if feq fs sm.fs then sm else { sm with fs := fs, a := (smCoef sm.t fs).1, b := (smCoef sm.t fs).2 } := by
  rw [smSetFs, coerceFs_of_isPosFinite hfs, fne]
  cases feq fs sm.fs <;> rfl

/-- The rate goes in twice: as the oscillator holds it, then again from `hz` where that is no NaN. -/
theorem oscSetRate_oscSetFs (hz : F32) (osc : Oscillator) :
    oscSetRate hz (oscSetFs fs osc) =
      { osc with
        fs := fs
        rate := if isNaN hz then osc.rate else clamp hz Config.rateMin Config.rateMax
        inc := oscInc (if isNaN hz then osc.rate else clamp hz Config.rateMin Config.rateMax) fs } := by
  rw [oscSetRate, oscSetFs, coerceFs_of_isPosFinite hfs]
  cases isNaN hz <;> rfl

end SetFs

/-- Settles O24: the coerced rate is valid, so the sub-blocks take it as it is. -/
theorem setFsPropagatesTheRate : Obligations.SetFsPropagatesTheRate := by
  rintro s _ _ rfl rfl
  have hfs := isPosFinite_coerceFs s.op0
  simp only [exec_setFs, propagateFs, oscSetRate_oscSetFs hfs, fltSetFs_of_isPosFinite hfs, smSetFs_of_isPosFinite hfs]
  rfl

theorem feq_self {x : F32} (h : isNaN x = false) : feq x x = true := feq_iff.mpr ⟨h, h, rfl⟩

/-- Settles O25: after SET_FS the coerced rate equals FS, where nothing happens. -/
theorem setFsTwiceIsSetFsOnce : Obligations.SetFsTwiceIsSetFsOnce := by
  intro s
  by_cases hsame : feq (coerceFs s.op0) s.fs = true
  · have hkeep : exec .setFs s = .next s := by rw [exec_setFs, if_pos hsame]
    exact ⟨s, hkeep, hkeep⟩
  · obtain ⟨hop0, -, -, -, -, hrate, -⟩ := propagateFs_frame (coerceFs s.op0) s
    have hnan := isNaN_false_of_finite (isPosFinite_iff.mp (isPosFinite_coerceFs s.op0)).1
    refine ⟨propagateFs (coerceFs s.op0) s, ?_, ?_⟩
    · rw [exec_setFs, if_neg hsame]
    · rw [exec_setFs, hop0, hrate, if_pos (feq_self hnan)]

/-! ### The resonance -0.0 -/

/-- Settles O43: the coefficients depend on the resonance through Q only, and Q_MIN absorbs a zero of either sign. -/
theorem negativeZeroResonanceIsZeroResonance : Obligations.NegativeZeroResonanceIsZeroResonance := by
  intro fc fs
  have hQ : fltQ 0x80000000#32 = fltQ 0x00000000#32 := by decide
  rw [fltCoef, fltCoef, hQ]

end Sys2Proof.Machine
end

section
/-! PROOFS. FRAME and PROCESS (44_engine_commands.md R98 to R100): the whole next state of FRAME, equal lanes, and a
list of frames served in order. -/

namespace Sys2Proof.Machine

/-! ### The control part -/

theorem clamp_of_isNaN {v : F32} (h : isNaN v = true) (lo hi : F32) : clamp v lo hi = v := by
  obtain ⟨hlow, -⟩ := comparisons_of_unordered (a := v) (b := lo) (.inl h)
  obtain ⟨hhigh, -⟩ := comparisons_of_unordered (a := hi) (b := v) (.inr h)
  rw [clamp, hlow, hhigh]
  rfl

/-- FLT_SETCUTOFF with a clamped value, a NaN among them: what it writes is the value itself (43_filter.md R84). -/
theorem fltSetCutoff_clamp_cases (v : F32) (f : Filter) :
    fltSetCutoff (clamp v Config.cutMin Config.cutMax) f =
      if isNaN (clamp v Config.cutMin Config.cutMax) then f
      else { f with cut := clamp v Config.cutMin Config.cutMax
                    coef := fltCoef (clamp v Config.cutMin Config.cutMax) f.res f.fs } := by
  cases hv : isNaN v
  · rw [fltSetCutoff_clamp f hv, isNaN_clamp hv (by decide)]
    rfl
  · rw [clamp_of_isNaN hv, fltSetCutoff, hv]
    rfl

/-- What step b makes of a filter: the cutoff `m` is pushed where the depth is not zero, and a NaN is ignored. -/
def pushCutoff (depth m : F32) (f : Filter) : Filter :=
  if feq depth f0 || isNaN m then f else { f with cut := m, coef := fltCoef m f.res f.fs }

theorem pushCutoff_keeps (depth m : F32) (f : Filter) :
    (pushCutoff depth m f).x1 = f.x1 ∧ (pushCutoff depth m f).x2 = f.x2 ∧ (pushCutoff depth m f).y1 = f.y1 ∧
      (pushCutoff depth m f).y2 = f.y2 := by
  unfold pushCutoff; split <;> simp

/-- Steps a to c: the tick, and, where the depth is not zero, one smoother step and the modulated cutoff. -/
theorem frameControl_eq (s : State) :
    frameControl s =
      { s with
        osc := oscTick s.osc
        sm := if feq s.params.lfoModDepth f0 then s.sm else smProcess s.params.cutoff s.sm
        fl := pushCutoff s.params.lfoModDepth (modCutoff (oscTickValue s.osc) s) s.fl
        fr := pushCutoff s.params.lfoModDepth (modCutoff (oscTickValue s.osc) s) s.fr } := by
  rw [frameControl, fne]
  cases hdepth : feq s.params.lfoModDepth f0
  · have hpush (f : Filter) : fltSetCutoff (modCutoff (oscTickValue s.osc) s) f =
        pushCutoff s.params.lfoModDepth (modCutoff (oscTickValue s.osc) s) f := by
      rw [pushCutoff, hdepth, Bool.false_or]
      exact fltSetCutoff_clamp_cases _ f
    rw [← hpush, ← hpush]
    rfl
  · simp only [pushCutoff, hdepth]
    rfl

/-! ### FRAME -/

/-- Settles O31: the filters the control part leaves, with the history they had, then one step of each (43_filter.md
R86). -/
theorem frameProcessesOneStereoSample : Obligations.FrameProcessesOneStereoSample := by
  rintro s _ _ _ m fl fr _ _ rfl rfl rfl hm hfl hfr rfl rfl
  have hcutoff : m = modCutoff (oscTickValue s.osc) s := hm
  have hpushL : fl = pushCutoff s.params.lfoModDepth m s.fl := hfl
  have hpushR : fr = pushCutoff s.params.lfoModDepth m s.fr := hfr
  obtain ⟨hx1, hx2, hy1, hy2⟩ := pushCutoff_keeps s.params.lfoModDepth m s.fl
  obtain ⟨gx1, gx2, gy1, gy2⟩ := pushCutoff_keeps s.params.lfoModDepth m s.fr
  rw [← hpushL] at hx1 hx2 hy1 hy2
  rw [← hpushR] at gx1 gx2 gy1 gy2
  rw [exec_frame, frameControl_eq, ← hcutoff, ← hpushL, ← hpushR, ← hx1, ← hx2, ← hy1, ← hy2, ← gx1, ← gx2, ← gy1,
    ← gy2]
  rfl

/-! ### Equal lanes -/

/-- Filters that meet the invariants differ in their histories only (I1 to I3 of 10_state.md R35). -/
theorem State.Inv.fl_eq_fr {s : State} (h : s.Inv) (hx1 : s.fl.x1 = s.fr.x1) (hx2 : s.fl.x2 = s.fr.x2)
    (hy1 : s.fl.y1 = s.fr.y1) (hy2 : s.fl.y2 = s.fr.y2) : s.fl = s.fr := by
  have hfs : s.fl.fs = s.fr.fs := h.fl_fs.trans h.fr_fs.symm
  calc s.fl
    _ = ⟨s.fl.fs, s.fl.cut, s.fl.res, s.fl.coef, s.fl.x1, s.fl.x2, s.fl.y1, s.fl.y2⟩ := rfl
    _ = s.fr := by rw [hfs, h.same_cut, h.same_res, h.same_coef, hx1, hx2, hy1, hy2]

/-- Settles O34: the lanes start from one filter, are pushed one cutoff and take one input. -/
theorem equalLanesGiveEqualOutputs : Obligations.EqualLanesGiveEqualOutputs := by
  intro s hinv hop hx1 hx2 hy1 hy2
  have hlanes : s.fl = s.fr := hinv.fl_eq_fr hx1 hx2 hy1 hy2
  have hpushed : (frameControl s).fl = (frameControl s).fr := by rw [frameControl_eq, hlanes]
  have hinput : (frameControl s).op0 = (frameControl s).op1 := by rw [frameControl_eq, hop]
  exact ⟨_, exec_frame s, congrArg₂ fltOutput hpushed hinput, congrArg₂ fltProcess hpushed hinput⟩

/-! ### PROCESS -/

/-- A run goes on from where its first steps end. -/
theorem run_add {s t : State} {j : Nat} (h : core.run j s = .next t) (k : Nat) :
    core.run (j + k) s = core.run k t := by
  induction j generalizing s with
  | zero => cases h; rw [Nat.zero_add]
  | succ j ih =>
    cases hstep : step s with
    | next u =>
      rw [run_succ hstep] at h
      rw [Nat.add_right_comm, run_succ hstep, ih h]
    | fault r => cases r
    | refused r =>
      have hstop := Host.Core.run.eq_2 core s j
      have hcore : core.step s = .refused r := hstep
      rw [hcore] at hstop
      cases hstop.symm.trans h

/-- One frame of PROCESS: its operands, its FRAME, and its two results to the host (44_engine_commands.md R99). -/
def processFrame (l r : F32) (s : State) : State :=
  let t := frameFilter (frameControl ((s.withOp0 l).withOp1 r))
  t.withReadLog (t.res1 :: t.res0 :: t.readLog)

theorem processFrames_cons (l r : F32) (frames : List (F32 × F32)) (s : State) :
    processFrames ((l, r) :: frames) s = processFrames frames (processFrame l r s) := rfl

/-- The bus expansion of one frame, whatever the queue holds behind it. -/
theorem run_frame (l r : F32) (s : State) (rest : List HostEvent) :
    core.run 5 { s with pending := lineEvents (.frame l r) ++ rest } =
      .next { processFrame l r s with pending := rest } := by
  obtain ⟨u, hu, hrun⟩ := expansion_frame l r s rest
  have hframe := exec_withHost rest s.readLog (exec_frame ((s.withOp0 l).withOp1 r))
  injection hu.symm.trans hframe with hu
  have hlog : (frameFilter (frameControl ((s.withOp0 l).withOp1 r))).readLog = s.readLog := by
    rw [frameControl_eq]; rfl
  rw [hrun, hu, processFrame, hlog]
  rfl

/-- Settles O52, by induction on the frames: the accesses of the first are served, then those of the rest from there. -/
theorem processIsItsFramesInOrder : Obligations.ProcessIsItsFramesInOrder := by
  intro frames s rest
  induction frames generalizing s with
  | nil => exact run_zero _
  | cons frame frames ih =>
    obtain ⟨l, r⟩ := frame
    have hqueue : pseudoEvents (.process ((l, r) :: frames)) ++ rest =
        lineEvents (.frame l r) ++ (pseudoEvents (.process frames) ++ rest) := by
      simp [pseudoEvents]
    rw [hqueue, List.length_cons, Nat.mul_succ, Nat.add_comm, run_add (run_frame l r s _), ih, processFrames_cons]

end Sys2Proof.Machine
end

section
/-! PROOFS. What stops a step: nothing, for a host that keeps to aligned word accesses (60_exceptions.md R107, R110,
R120). -/

namespace Sys2Proof.Machine

/-- Settles O8: the empty queue's arm of the step. -/
theorem idleStepChangesNothing : Obligations.IdleStepChangesNothing := fun _ => step_idle

/-! ### A well-formed event is served -/

/-- Every word written to CMD answers a next state, the BAD words included (60_exceptions.md R109, R110). -/
theorem runCommand_next (w : Word) (s : State) : ∃ t, runCommand w s = .next t := by
  cases hdecode : decode w with
  | ok i => rw [runCommand_of_decode hdecode]; exact exec_next i s
  | error c => exact ⟨_, runCommand_illegal hdecode s⟩

/-- The events that keep H5 (70_reset_and_hazards.md R123). -/
theorem event_wf_cases {e : HostEvent} (h : e.wf = true) :
    e = .powerOn ∨ ∃ off, Offset.isAligned off = true ∧ (e = .read .word off ∨ ∃ w, e = .write .word off w) := by
  cases e with
  | powerOn => exact .inl rfl
  | read size off =>
    obtain ⟨hsize, ha⟩ := Bool.and_eq_true_iff.mp h
    cases size <;> cases hsize
    exact .inr ⟨off, ha, .inl rfl⟩
  | write size off w =>
    obtain ⟨hsize, ha⟩ := Bool.and_eq_true_iff.mp h
    cases size <;> cases hsize
    exact .inr ⟨off, ha, .inr ⟨w, rfl⟩⟩

theorem serve_next {e : HostEvent} (h : e.wf = true) (s : State) : ∃ t, serve e s = .next t := by
  obtain rfl | ⟨off, ha, rfl | ⟨w, rfl⟩⟩ := event_wf_cases h
  · exact ⟨_, rfl⟩
  · exact ⟨_, serve_read ha s⟩
  · cases hc : isCmd off with
    | false => exact ⟨_, serve_write ha hc w s⟩
    | true => rw [serve_command ha hc]; exact runCommand_next w s

/-! ### The queue across a step -/

theorem memWrite_pending (off : Offset) (w : Word) (s : State) : (memWrite off w s).pending = s.pending := by
  rcases memWrite_cases off w s with e | e | e | ⟨_, e⟩ <;> rw [e] <;> rfl

/-- A step takes the oldest event off the queue and puts none on it (20_memory.md R48). -/
theorem step_pending {s t : State} (h : step s = .next t) : t.pending = s.pending.tail := by
  rcases step_cases h with ⟨hidle, rfl⟩ | ⟨e, rest, hpending, hserved⟩
  · rw [hidle, List.tail_nil]
  · rw [hpending, List.tail_cons]
    rcases hserved with ⟨off, -, -, rfl⟩ | ⟨off, w, -, -, -, rfl⟩ | ⟨off, w, i, -, -, -, -, he⟩ |
      ⟨off, w, c, -, -, -, -, rfl⟩ | ⟨-, rfl⟩
    · rfl
    · exact memWrite_pending off w _
    · exact exec_pending he
    · rfl
    · rfl

theorem step_keeps_portOk {s t : State} (hs : portOk s = true) (h : step s = .next t) : portOk t = true := by
  rw [portOk, List.all_eq_true] at hs ⊢
  rw [step_pending h]
  exact fun e he => hs e (List.mem_of_mem_tail he)

theorem step_next {s : State} (h : portOk s = true) : ∃ t, step s = .next t := by
  cases hpending : s.pending with
  | nil => exact ⟨s, step_idle hpending⟩
  | cons e rest =>
    rw [step_event hpending]
    exact serve_next (List.all_eq_true.mp h e (hpending ▸ List.mem_cons_self)) _

/-- Settles O12: the oldest event is served because it is well-formed, and the others stay queued. -/
theorem wordAccessesNeverStop : Obligations.WordAccessesNeverStop := fun _ hok =>
  (step_next hok).imp fun _ hstep => ⟨hstep, step_keeps_portOk hok hstep⟩

end Sys2Proof.Machine
end

section
/-! PROOFS. Reset and hazards (70_reset_and_hazards.md): what writes the result registers and the histories, power-on
reset, the order of SET_PARAMs, and FRAME at depth zero. -/

namespace Sys2Proof.Machine

/-! ### The result registers (R128) -/

/-- The results of step d are the newest outputs in the filters' histories. -/
theorem frameFilter_results (s : State) :
    (frameFilter s).res0 = (frameFilter s).fl.y1 ∧ (frameFilter s).res1 = (frameFilter s).fr.y1 := by
  obtain ⟨-, -, hres0, hres1, -, -, -, -, -, hfl, hfr, -⟩ := frameFilter_frame s
  rw [hres0, hres1, hfl, hfr]
  exact ⟨rfl, rfl⟩

theorem getParam_eq_ite (i : Nat) (s : State) :
    getParam i s = if i < Config.numParams then (s.params.get i).getD 0#32 else 0#32 := by
  split_ifs with h
  · rfl
  · rw [getParam, ParamFile.get_of_le (Nat.le_of_not_lt h)]
    rfl

/-- The commands that write neither RES0 nor RES1. -/
theorem exec_results {i : Instr} {s t : State} (h : exec i s = .next t) (hframe : i ≠ .frame) (hinit : i ≠ .init)
    (hget : ∀ idx, i ≠ .getParam idx) : t.res0 = s.res0 ∧ t.res1 = s.res1 := by
  cases i with
  | nop => cases h; exact ⟨rfl, rfl⟩
  | init => exact absurd rfl hinit
  | setFs =>
    rw [exec_setFs] at h
    split at h <;> cases h
    · exact ⟨rfl, rfl⟩
    · obtain ⟨-, -, hres0, hres1, -⟩ := propagateFs_frame (coerceFs s.op0) s
      exact ⟨hres0, hres1⟩
  | loadDefaults => cases h; exact ⟨(loadDefaults_frame s).res0, (loadDefaults_frame s).res1⟩
  | setParam idx => cases h; exact ⟨(setParam_frame _ _ s).res0, (setParam_frame _ _ s).res1⟩
  | getParam idx => exact absurd rfl (hget idx)
  | frame => exact absurd rfl hframe

/-- Settles O15: the three commands that write a result register, the commands that do not, and the BAD words. -/
theorem resultRegistersChangeOnlyByTheirRules : Obligations.ResultRegistersChangeOnlyByTheirRules := by
  refine ⟨fun s => ?_, fun s idx => ?_, fun s => ?_, fun i s hframe hinit hget => ?_,
    fun s w c rest hpending hdecode => ?_⟩
  · exact ⟨_, exec_frame s, frameFilter_results _⟩
  · exact ⟨_, exec_getParam idx s, getParam_eq_ite idx.toNat s, rfl⟩
  · exact ⟨_, exec_init s, (loadDefaults_frame _).res0, (loadDefaults_frame _).res1⟩
  · obtain ⟨t, ht⟩ := exec_next i s
    exact ⟨t, ht, exec_results ht hframe hinit hget⟩
  · exact ⟨_, (step_command hpending).trans (runCommand_illegal hdecode _), rfl, rfl⟩

/-! ### Power-on reset (R121) -/

/-- The construction at the default rate with the default program is the reset state, but for the operands and the
host's side of the port. -/
theorem loadDefaults_construct_fsDefault (s : State) :
    loadDefaults (construct Config.fsDefault s) =
      { State.reset with op0 := s.op0, op1 := s.op1, pending := s.pending, readLog := s.readLog } := by
  rw [loadDefaults_eq]
  rfl

/-- Settles O17: the rate 44100.0 is valid, so INIT constructs at it. -/
theorem powerOnIsInitAtTheDefaultRate : Obligations.PowerOnIsInitAtTheDefaultRate := by
  intro s rest hpending
  have hrate : coerceFs 0x472C4400#32 = Config.fsDefault := coerceFs_of_isPosFinite (by decide)
  refine ⟨_, _, exec_init _, step_event hpending, ?_, rfl⟩
  rw [hrate, loadDefaults_construct_fsDefault]
  rfl

/-! ### The histories (R122) -/

/-- The contents of a filter's four delay registers. -/
def Filter.history (f : Filter) : F32 × F32 × F32 × F32 := (f.x1, f.x2, f.y1, f.y2)

/-- The registers that carry the past of the signal: the LFO's phase, the smoother's output and the filters'
histories. -/
structure SameHistory (s t : State) : Prop where
  phase : t.osc.phase = s.osc.phase
  smoothed : t.sm.z = s.sm.z
  fl : t.fl.history = s.fl.history
  fr : t.fr.history = s.fr.history

theorem SameOutsideParams.sameHistory {s t : State} (h : SameOutsideParams s t) : SameHistory s t := by
  obtain ⟨hlx1, hlx2, hly1, hly2⟩ := h.flHistory
  obtain ⟨hrx1, hrx2, hry1, hry2⟩ := h.frHistory
  refine ⟨h.phase, congrArg Smoother.z h.sm, ?_, ?_⟩
  · rw [Filter.history, hlx1, hlx2, hly1, hly2]; rfl
  · rw [Filter.history, hrx1, hrx2, hry1, hry2]; rfl

/-- A new sample rate goes into the rates and the coefficients only (R122). -/
theorem propagateFs_sameHistory (fs : F32) (s : State) : SameHistory s (propagateFs fs s) := by
  obtain ⟨-, -, -, -, -, -, -, hsm, hosc, hfl, hfr, -⟩ := propagateFs_frame fs s
  obtain ⟨hphase, -⟩ := oscSetRate_keeps s.params.lfoFrequency (oscSetFs fs s.osc)
  constructor
  · rw [hosc, hphase]; rfl
  · rw [hsm, smSetFs_z]
  · rw [hfl]; rfl
  · rw [hfr]; rfl

theorem memWrite_sameHistory (off : Offset) (w : Word) (s : State) : SameHistory s (memWrite off w s) := by
  rcases memWrite_cases off w s with e | e | e | ⟨-, e⟩ <;> rw [e] <;> exact ⟨rfl, rfl, rfl, rfl⟩

theorem exec_sameHistory {i : Instr} {s t : State} (h : exec i s = .next t) :
    i = .frame ∨ i = .init ∨ SameHistory s t := by
  cases i with
  | nop => cases h; exact .inr (.inr ⟨rfl, rfl, rfl, rfl⟩)
  | init => exact .inr (.inl rfl)
  | setFs =>
    rw [exec_setFs] at h
    split at h <;> cases h
    · exact .inr (.inr ⟨rfl, rfl, rfl, rfl⟩)
    · exact .inr (.inr (propagateFs_sameHistory _ s))
  | loadDefaults => cases h; exact .inr (.inr (loadDefaults_frame s).sameHistory)
  | setParam idx => cases h; exact .inr (.inr (setParam_frame _ _ s).sameHistory)
  | getParam idx => cases h; exact .inr (.inr ⟨rfl, rfl, rfl, rfl⟩)
  | frame => exact .inl rfl

/-- Everything a step can do to the histories. -/
theorem step_sameHistory {s t : State} (h : step s = .next t) :
    (∃ rest, s.pending = commandEvent (encode .frame) :: rest) ∨
    (∃ rest, s.pending = commandEvent (encode .init) :: rest) ∨
    (∃ rest, s.pending = .powerOn :: rest) ∨ SameHistory s t := by
  rcases step_cases h with ⟨-, rfl⟩ | ⟨e, rest, hpending, hserved⟩
  · exact .inr (.inr (.inr ⟨rfl, rfl, rfl, rfl⟩))
  · rcases hserved with ⟨off, -, -, rfl⟩ | ⟨off, w, -, -, -, rfl⟩ | ⟨off, w, i, rfl, ha, hc, hdecode, he⟩ |
      ⟨off, w, c, -, -, -, -, rfl⟩ | ⟨rfl, -⟩
    · exact .inr (.inr (.inr ⟨rfl, rfl, rfl, rfl⟩))
    · obtain ⟨hphase, hz, hfl, hfr⟩ := memWrite_sameHistory off w (s.withPending rest)
      exact .inr (.inr (.inr ⟨hphase, hz, hfl, hfr⟩))
    · rw [eq_zero_of_isCmd ha hc, decode_ok_iff.mp hdecode] at hpending
      rcases exec_sameHistory he with rfl | rfl | ⟨hphase, hz, hfl, hfr⟩
      · exact .inl ⟨rest, hpending⟩
      · exact .inr (.inl ⟨rest, hpending⟩)
      · exact .inr (.inr (.inr ⟨hphase, hz, hfl, hfr⟩))
    · exact .inr (.inr (.inr ⟨rfl, rfl, rfl, rfl⟩))
    · exact .inr (.inr (.inl ⟨rest, hpending⟩))

/-- Settles O21: the encoder's words for FRAME and INIT are the two the statement names. -/
theorem onlyFrameInitAndResetMoveTheHistory : Obligations.OnlyFrameInitAndResetMoveTheHistory := by
  intro s t hstep
  rcases step_sameHistory hstep with hframe | hinit | hreset | ⟨hphase, hz, hfl, hfr⟩
  · exact .inl hframe
  · exact .inr (.inl hinit)
  · exact .inr (.inr (.inl hreset))
  · exact .inr (.inr (.inr ⟨hphase, hz, hfl, hfr⟩))

/-! ### The order of SET_PARAMs (R124) -/

/-- Cutoff and resonance in either order: the second setter computes the coefficients from both. -/
theorem fltSetRes_fltSetCutoff (q hz : F32) (f : Filter) :
    fltSetRes q (fltSetCutoff hz f) = fltSetCutoff hz (fltSetRes q f) := by
  unfold fltSetRes fltSetCutoff
  split_ifs <;> rfl

theorem oscSetRate_oscSetWave (hz v : F32) (osc : Oscillator) :
    oscSetRate hz (oscSetWave v osc) = oscSetWave v (oscSetRate hz osc) := by
  unfold oscSetRate oscSetWave
  split_ifs <;> rfl

theorem setResonance_setCutoff (w v : F32) (s : State) :
    setResonance w (setCutoff v s) = setCutoff v (setResonance w s) := by
  simp only [setResonance, setCutoff, State.withParams, State.withFl, State.withFr, fltSetRes_fltSetCutoff]

theorem setLfoRate_setWaveform (w v : F32) (s : State) :
    setLfoRate w (setWaveform v s) = setWaveform v (setLfoRate w s) := by
  simp only [setLfoRate, setWaveform, State.withParams, State.withOsc, oscSetRate_oscSetWave]

/-- Only the setters of one sub-block meet outside the parameter file: 0 and 1 in the filters, 2 and 3 in the
oscillator. -/
theorem setParam_comm_of_lt {i j : Nat} (h : i < j) (v w : F32) (s : State) :
    setParam j w (setParam i v s) = setParam i v (setParam j w s) := by
  by_cases hj : Config.numParams ≤ j
  · rw [setParam_of_le hj, setParam_of_le hj]
  cases hv : isNaN v with
  | true => rw [setParam_of_isNaN hv, setParam_of_isNaN hv]
  | false =>
    cases hw : isNaN w with
    | true => rw [setParam_of_isNaN hw, setParam_of_isNaN hw]
    | false =>
      have hpairs : (i = 0 ∧ j = 1) ∨ (i = 2 ∧ j = 3) ∨ (i < 2 ∧ j = 2) ∨ (i < 2 ∧ j = 3) ∨ (i < 4 ∧ j = 4) := by
        unfold Config.numParams at hj
        omega
      rcases hpairs with ⟨rfl, rfl⟩ | ⟨rfl, rfl⟩ | ⟨hi, rfl⟩ | ⟨hi, rfl⟩ | ⟨hi, rfl⟩
      · simp only [setParam_of_not_isNaN hv, setParam_of_not_isNaN hw]
        exact setResonance_setCutoff w v s
      · simp only [setParam_of_not_isNaN hv, setParam_of_not_isNaN hw]
        exact setLfoRate_setWaveform w v s
      all_goals interval_cases i <;> simp only [setParam_of_not_isNaN hv, setParam_of_not_isNaN hw] <;> rfl

theorem setParam_comm {i j : Nat} (h : i ≠ j) (v w : F32) (s : State) :
    setParam j w (setParam i v s) = setParam i v (setParam j w s) := by
  rcases Nat.lt_or_gt_of_ne h with hlt | hgt
  · exact setParam_comm_of_lt hlt v w s
  · exact (setParam_comm_of_lt hgt w v s).symm

/-- The value comes as an argument: SET_PARAM does not look at OP0 itself. -/
theorem setParam_withOp0 (i : Nat) (v x : F32) (s : State) :
    setParam i v (s.withOp0 x) = (setParam i v s).withOp0 x := by
  unfold setParam
  split_ifs
  · rfl
  · rfl
  · split <;> rfl

/-- Settles O30: with OP0 put back, both orders are the two effects on one state. -/
theorem setParamsOfDifferentParametersCommute : Obligations.SetParamsOfDifferentParametersCommute := by
  intro s i j v w hne
  refine ⟨_, _, _, _, exec_setParam _ _, exec_setParam _ _, exec_setParam _ _, exec_setParam _ _, ?_⟩
  have hindex : i.toNat ≠ j.toNat := BitVec.toNat_ne_iff_ne.mpr hne
  have horder (a b : Nat) (x y : F32) :
      (setParam b y ((setParam a x (s.withOp0 x)).withOp0 y)).withOp0 s.op0 =
        (setParam b y (setParam a x s)).withOp0 s.op0 := by
    rw [setParam_withOp0, setParam_withOp0, setParam_withOp0]
    rfl
  calc (setParam j.toNat w ((setParam i.toNat v (s.withOp0 v)).withOp0 w)).withOp0 s.op0
    _ = (setParam j.toNat w (setParam i.toNat v s)).withOp0 s.op0 := horder _ _ _ _
    _ = (setParam i.toNat v (setParam j.toNat w s)).withOp0 s.op0 := by rw [setParam_comm hindex]
    _ = (setParam i.toNat v ((setParam j.toNat w (s.withOp0 w)).withOp0 v)).withOp0 s.op0 := (horder _ _ _ _).symm

/-! ### FRAME at depth zero (R126) -/

/-- Settles O32: both zeros compare equal to 0.0, so the control part does nothing but tick, and the filter part keeps
what is not history. -/
theorem frameAtZeroDepthKeepsTheCutoff : Obligations.FrameAtZeroDepthKeepsTheCutoff := by
  intro s hzero
  have hdepth : fne s.params.lfoModDepth f0 = false := by
    rcases hzero with h | h <;> rw [h] <;> decide
  obtain ⟨-, -, -, -, -, -, -, hticked, -⟩ := frameControl_frame s
  obtain ⟨-, -, -, -, -, -, -, hsm, hosc, hfl, hfr, -⟩ := frameFilter_frame (frameControl s)
  rcases frameControl_filters s with ⟨-, hsmKept, hflKept, hfrKept⟩ | ⟨hmodulated, -⟩
  · refine ⟨_, exec_frame s, ?_⟩
    rw [hsm, hosc, hfl, hfr, hticked, hsmKept, hflKept, hfrKept]
    exact ⟨rfl, rfl, rfl, rfl, rfl, rfl⟩
  · cases hdepth.symm.trans hmodulated

end Sys2Proof.Machine
end

section
/-! PROOFS. The binary32 operations outside the range of rounding, as IEEE 754 gives them: NaN operands, exact zeros,
zero divisors and infinities (00_scope.md R14; log entry 18). -/

namespace Sys2Proof.Machine

/-! ### What each operation answers, by the class of its operands -/

section Classes
variable {a b : F32}

theorem addOr_of_isNaN (nan : F32) (h : isNaN a = true ∨ isNaN b = true) : addOr nan a b = nan :=
  if_pos (by simpa using h)

theorem addOr_of_isInf_isFinite (nan : F32) (ha : isInf a = true) (hb : isFinite b = true) : addOr nan a b = a := by
  simp [addOr, ha, isNaN_false_of_inf ha, isNaN_false_of_finite hb, isInf_false_of_finite hb]

theorem addOr_of_isFinite_isInf (nan : F32) (ha : isFinite a = true) (hb : isInf b = true) : addOr nan a b = b := by
  simp [addOr, hb, isNaN_false_of_inf hb, isNaN_false_of_finite ha, isInf_false_of_finite ha]

/-- Infinities of one sign add up, those of two cancel. -/
theorem addOr_of_isInf_isInf (nan : F32) (ha : isInf a = true) (hb : isInf b = true) :
    addOr nan a b = if sgn a = sgn b then a else nan := by
  cases hsa : sgn a <;> cases hsb : sgn b <;>
    simp [addOr, ha, hb, isNaN_false_of_inf ha, isNaN_false_of_inf hb, hsa, hsb]

theorem addFinite_of_eq_zero (h : value a + value b = 0) : addFinite a b = withSign (sgn a && sgn b) 0 := if_pos h

theorem fmul_of_isNaN (h : isNaN a = true ∨ isNaN b = true) : fmul a b = nanOf .mul a b := if_pos (by simpa using h)

theorem fmul_of_isInf_left (ha : isInf a = true) (hb : isNaN b = false) :
    fmul a b = if isZero b then nanOf .mul a b else withSign (sgn a != sgn b) magInf := by
  simp [fmul, ha, isNaN_false_of_inf ha, hb]

theorem fmul_of_isInf_right (ha : isFinite a = true) (hb : isInf b = true) :
    fmul a b = if isZero a then nanOf .mul a b else withSign (sgn a != sgn b) magInf := by
  simp [fmul, hb, isNaN_false_of_inf hb, isNaN_false_of_finite ha, isInf_false_of_finite ha]

theorem fdiv_of_isNaN (h : isNaN a = true ∨ isNaN b = true) : fdiv a b = nanOf .div a b := if_pos (by simpa using h)

theorem fdiv_of_isInf_left (ha : isInf a = true) (hb : isNaN b = false) :
    fdiv a b = if isInf b then nanOf .div a b else withSign (sgn a != sgn b) magInf := by
  simp [fdiv, ha, isNaN_false_of_inf ha, hb]

theorem fdiv_of_isInf_right (ha : isFinite a = true) (hb : isInf b = true) :
    fdiv a b = withSign (sgn a != sgn b) 0 := by
  simp [fdiv, hb, isNaN_false_of_inf hb, isNaN_false_of_finite ha, isInf_false_of_finite ha]

theorem fdiv_of_isZero_right (ha : isFinite a = true) (hb : isFinite b = true) (hzero : isZero b = true) :
    fdiv a b = if isZero a then nanOf .div a b else withSign (sgn a != sgn b) magInf := by
  simp [fdiv, hzero, isNaN_false_of_finite ha, isNaN_false_of_finite hb, isInf_false_of_finite ha,
    isInf_false_of_finite hb]

theorem isZero_false_of_value_ne_zero (h : value a ≠ 0) : isZero a = false := by
  rwa [Ne, value_eq_zero_iff, Bool.not_eq_true] at h

/-! ### The four clauses of IEEE 754 -/

theorem operations_of_isNaN (h : isNaN a = true ∨ isNaN b = true) :
    isNaN (fadd a b) = true ∧ isNaN (fsub a b) = true ∧ isNaN (fmul a b) = true ∧ isNaN (fdiv a b) = true := by
  have hneg : isNaN a = true ∨ isNaN (fneg b) = true := by rwa [isNaN_fneg]
  refine ⟨?_, ?_, ?_, ?_⟩
  · rw [fadd, addOr_of_isNaN _ h, isNaN_nanOf]
  · rw [fsub, addOr_of_isNaN _ hneg, isNaN_nanOf]
  · rw [fmul_of_isNaN h, isNaN_nanOf]
  · rw [fdiv_of_isNaN h, isNaN_nanOf]

/-- Exact zeros and zero divisors of finite operands. -/
theorem operations_at_zero (ha : isFinite a = true) (hb : isFinite b = true) :
    (value a + value b = 0 → fadd a b = withSign (sgn a && sgn b) 0) ∧
    (value a - value b = 0 → fsub a b = withSign (sgn a && !sgn b) 0) ∧
    (value a * value b = 0 → fmul a b = withSign (sgn a != sgn b) 0) ∧
    (value a = 0 → value b ≠ 0 → fdiv a b = withSign (sgn a != sgn b) 0) ∧
    (value a ≠ 0 → value b = 0 → fdiv a b = withSign (sgn a != sgn b) magInf) ∧
    (value a = 0 → value b = 0 → isNaN (fdiv a b) = true) := by
  refine ⟨fun h => ?_, fun h => ?_, fun h => ?_, fun hva hvb => ?_, fun hva hvb => ?_, fun hva hvb => ?_⟩
  · rw [fadd_of_finite ha hb, addFinite_of_eq_zero h]
  · rw [sub_eq_add_neg, ← value_fneg] at h
    rw [fsub_of_finite ha hb, addFinite_of_eq_zero h, sgn_fneg]
  · rw [fmul_of_finite ha hb, value_mul_eq_zero h, roundMag_zero]
  · have hnum : units (mag a) = 0 := by rw [← natAbs_value, hva, Int.natAbs_zero]
    rw [fdiv_of_finite ha hb (isZero_false_of_value_ne_zero hvb), hnum, Nat.zero_mul, roundMag_zero]
  · rw [fdiv_of_isZero_right ha hb ((value_eq_zero_iff b).mp hvb), isZero_false_of_value_ne_zero hva]
    rfl
  · rw [fdiv_of_isZero_right ha hb ((value_eq_zero_iff b).mp hvb), if_pos ((value_eq_zero_iff a).mp hva), isNaN_nanOf]

/-- An infinity on one side, a finite value on the other. -/
theorem operations_of_isInf_isFinite (ha : isInf a = true) (hb : isFinite b = true) :
    fadd a b = a ∧ fadd b a = a ∧ fsub a b = a ∧ fsub b a = fneg a ∧
    (value b ≠ 0 → fmul a b = withSign (sgn a != sgn b) magInf ∧ fmul b a = withSign (sgn a != sgn b) magInf) ∧
    (value b = 0 → isNaN (fmul a b) = true ∧ isNaN (fmul b a) = true) ∧
    fdiv a b = withSign (sgn a != sgn b) magInf ∧ fdiv b a = withSign (sgn a != sgn b) 0 := by
  have hnan : isNaN b = false := isNaN_false_of_finite hb
  have hsign : (sgn b != sgn a) = (sgn a != sgn b) := bne_comm
  refine ⟨addOr_of_isInf_isFinite _ ha hb, addOr_of_isFinite_isInf _ hb ha,
    addOr_of_isInf_isFinite _ ha (by rwa [isFinite_fneg]), addOr_of_isFinite_isInf _ hb (by rwa [isInf_fneg]),
    fun hne => ?_, fun hzero => ?_, ?_, ?_⟩
  · rw [fmul_of_isInf_left ha hnan, fmul_of_isInf_right hb ha, isZero_false_of_value_ne_zero hne, hsign]
    exact ⟨rfl, rfl⟩
  · rw [fmul_of_isInf_left ha hnan, fmul_of_isInf_right hb ha, if_pos ((value_eq_zero_iff b).mp hzero),
      if_pos ((value_eq_zero_iff b).mp hzero)]
    exact ⟨isNaN_nanOf _ _ _, isNaN_nanOf _ _ _⟩
  · rw [fdiv_of_isInf_left ha hnan, isInf_false_of_finite hb]
    rfl
  · rw [fdiv_of_isInf_right hb ha, hsign]

theorem operations_of_isInf_isInf (ha : isInf a = true) (hb : isInf b = true) :
    (sgn a = sgn b → fadd a b = a ∧ isNaN (fsub a b) = true) ∧
    (sgn a ≠ sgn b → isNaN (fadd a b) = true ∧ fsub a b = a) ∧
    fmul a b = withSign (sgn a != sgn b) magInf ∧ isNaN (fdiv a b) = true := by
  have hadd : fadd a b = if sgn a = sgn b then a else nanOf .add a b := addOr_of_isInf_isInf _ ha hb
  have hsub : fsub a b = if sgn a = !sgn b then a else nanOf .sub a b := by
    rw [fsub, addOr_of_isInf_isInf _ ha (by rwa [isInf_fneg]), sgn_fneg]
  refine ⟨fun heq => ?_, fun hne => ?_, ?_, ?_⟩
  · rw [hadd, if_pos heq, hsub, if_neg (by simp [heq]), isNaN_nanOf]
    exact ⟨rfl, rfl⟩
  · rw [hadd, if_neg hne, hsub, if_pos (Bool.eq_not_of_ne hne), isNaN_nanOf]
    exact ⟨rfl, rfl⟩
  · rw [fmul_of_isInf_left ha (isNaN_false_of_inf hb), isZero_false_of_inf hb]
    rfl
  · rw [fdiv_of_isInf_left ha (isNaN_false_of_inf hb), if_pos hb, isNaN_nanOf]

end Classes

/-- Settles O54: a clause for each class of operands. -/
theorem zerosInfinitiesAndNaNsFollowIEEE : Obligations.ZerosInfinitiesAndNaNsFollowIEEE :=
  ⟨fun _ _ => operations_of_isNaN, fun _ _ => operations_at_zero, fun _ _ => operations_of_isInf_isFinite,
    fun _ _ => operations_of_isInf_isInf⟩

end Sys2Proof.Machine
end

section
/-! PROOFS. The model's byte-addressed bridge (20_memory.md R43; log entry 9). -/

namespace Sys2Proof.Machine

/-- A word is its four bytes, the most significant first. -/
theorem append_extractLsb_bytes (w : Word) :
    w.extractLsb' 24 8 ++ w.extractLsb' 16 8 ++ w.extractLsb' 8 8 ++ w.extractLsb' 0 8 = w := by
  rw [BitVec.extractLsb'_append_extractLsb'_eq_extractLsb' (show 24 = 16 + 8 from rfl),
    BitVec.extractLsb'_append_extractLsb'_eq_extractLsb' (show 16 = 8 + 8 from rfl),
    BitVec.extractLsb'_append_extractLsb'_eq_extractLsb' (show 8 = 0 + 8 from rfl)]
  exact BitVec.extractLsb'_eq_self

theorem extractLsb_bytes_append (b3 b2 b1 b0 : Byte) :
    BitVec.extractLsb' 24 8 (b3 ++ b2 ++ b1 ++ b0 : Word) = b3 ∧
    BitVec.extractLsb' 16 8 (b3 ++ b2 ++ b1 ++ b0 : Word) = b2 ∧
    BitVec.extractLsb' 8 8 (b3 ++ b2 ++ b1 ++ b0 : Word) = b1 ∧
    BitVec.extractLsb' 0 8 (b3 ++ b2 ++ b1 ++ b0 : Word) = b0 := by
  refine ⟨?_, ?_, ?_, BitVec.extractLsb'_append_eq_right⟩
  · rw [BitVec.extractLsb'_append_eq_of_le (by decide), BitVec.extractLsb'_append_eq_of_le (by decide)]
    exact BitVec.extractLsb'_append_eq_left
  · rw [BitVec.extractLsb'_append_eq_of_le (by decide), BitVec.extractLsb'_append_eq_of_le (by decide)]
    exact BitVec.extractLsb'_append_eq_right
  · rw [BitVec.extractLsb'_append_eq_of_le (by decide)]
    exact BitVec.extractLsb'_append_eq_right

theorem bridgeWord_bridgeBytes (w : Word) :
    bridgeWord (bridgeBytes w)[0] (bridgeBytes w)[1] (bridgeBytes w)[2] (bridgeBytes w)[3] = w := by
  unfold bridgeWord bridgeBytes
  split_ifs
  · exact append_extractLsb_bytes w
  · exact append_extractLsb_bytes w

theorem bridgeBytes_bridgeWord (b0 b1 b2 b3 : Byte) : bridgeBytes (bridgeWord b0 b1 b2 b3) = #v[b0, b1, b2, b3] := by
  unfold bridgeBytes bridgeWord
  split_ifs
  · obtain ⟨h3, h2, h1, h0⟩ := extractLsb_bytes_append b3 b2 b1 b0
    simp only [h0, h1, h2, h3]
  · obtain ⟨h0, h1, h2, h3⟩ := extractLsb_bytes_append b0 b1 b2 b3
    simp only [h0, h1, h2, h3]

/-- Settles O53, one byte order and the other. -/
theorem bridgeCarriesWholeWords : Obligations.BridgeCarriesWholeWords :=
  ⟨bridgeWord_bridgeBytes, bridgeBytes_bridgeWord⟩

end Sys2Proof.Machine
end
